-- ==== Sys2Proof/Word.lean ====
section
/-! DEFINITION. The word types of dali-framer: the byte and the two counter widths. -/

namespace Sys2Proof

/-- A wire byte, a payload byte, a status byte: 0 to 255, never signed (00_scope.md section 5). -/
abbrev Byte := BitVec 8

/-- A register of `CNT_W` = 6 bits: `acc_len`, `byte_cnt`, and the index `rx_rd_idx` (R4, R25, R26, R136). -/
abbrev Cnt := BitVec 6

/-- A register of `WAIT_W` = 8 bits: `wait_cnt`, `wait_lim`, and the input `rx_wait_limit` (R4, R27, R28). -/
abbrev Wait := BitVec 8

end Sys2Proof
end

