-- ==== Sys2Proof/Config.lean ====
section
/-! DEFINITION. The configuration record of R4: every numeric literal of the source is one named field, so that a
corrected literal is a one-line change.  The instance's values are `Sys2Proof.Machine.dali`.
The block has no value that the spec leaves open after an instruction, so there is no free value here. -/

namespace Sys2Proof

/-- The implementation parameters of R4.  The widths `CNT_W` and `WAIT_W` are the types `Cnt` and `Wait`;
`ACC_CAP` is derived (`Sys2Proof.Machine.accCap`). -/
structure Config where
  /-- `START`, the start marker -/
  start : Byte
  /-- `STOP`, the stop marker -/
  stop : Byte
  /-- `ESC`, the escape marker -/
  esc : Byte
  /-- `BYTE_CAP`: how many wire bytes an invocation may consume -/
  byteCap : Nat
  /-- `WAIT_LIMIT_DEFAULT`: the wait limit the host passes when it wants the default -/
  waitLimitDefault : Wait
  /-- `POLL_INTERVAL` in microseconds: nominal, used by no rule (R4, R226) -/
  pollIntervalUs : Nat
  hDaliCommand : Byte
  hDaliRcv1Bytes : Byte
  hDaliRcv2Bytes : Byte
  hTimeframeExpired : Byte
  hInvalidDaliFrame : Byte
  hEcho : Byte
  /-- `WAIT_RELOAD_ON_BYTE`, the OPEN parameter (R4, R27, decision D8; assumption 9) -/
  waitReloadOnByte : Bool
  deriving DecidableEq, Repr

/-- The three markers are pairwise distinct: all that R4 lets a model assume of them. -/
abbrev Config.MarkersDistinct (c : Config) : Prop :=
  c.start ≠ c.stop ∧ c.start ≠ c.esc ∧ c.stop ≠ c.esc

/-- The six header values are pairwise distinct (93_implementation_defined.md U15). -/
abbrev Config.HeadersDistinct (c : Config) : Prop :=
  [c.hDaliCommand, c.hDaliRcv1Bytes, c.hDaliRcv2Bytes, c.hTimeframeExpired, c.hInvalidDaliFrame, c.hEcho].Nodup

/-- The byte cap leaves room for two markers and fits `byte_cnt` (`CNT_W` = 6 bits). -/
abbrev Config.CapFits (c : Config) : Prop := 2 ≤ c.byteCap ∧ c.byteCap < 64

end Sys2Proof
end

