-- ==== Sys2Proof/Machine/Params.lean ====
section
/-! DEFINITION. The parameter values of the instance (R4) and the functions of the parameters. -/

namespace Sys2Proof.Machine

/-- The parameters with the values R4 lists; they are constants of the instance (R58).  The literals are
unaudited (assumption 10, UNVERIFIED); `waitReloadOnByte` has its default (assumption 9, DESIGN CHOICE). -/
def dali : Config where
  start := 0x7C#8
  stop := 0x7D#8
  esc := 0x7E#8
  byteCap := 40
  waitLimitDefault := 60#8
  pollIntervalUs := 1000
  hDaliCommand := 0x01#8
  hDaliRcv1Bytes := 0x02#8
  hDaliRcv2Bytes := 0x03#8
  hTimeframeExpired := 0x0A#8
  hInvalidDaliFrame := 0x0B#8
  hEcho := 0x1E#8
  waitReloadOnByte := false

/-- `ACC_CAP = BYTE_CAP - 1`: how many bytes the accumulator has (R4, R24). -/
def accCap (c : Config) : Nat := c.byteCap - 1

/-- `IsMarker(b)` (00_scope.md section 5). -/
def isMarker (c : Config) (b : Byte) : Bool :=
  b == c.start || b == c.stop || b == c.esc

/-- The header byte is one of the six values of R75. -/
def isKnownHeader (c : Config) (h : Byte) : Bool :=
  h == c.hDaliCommand || h == c.hDaliRcv1Bytes || h == c.hDaliRcv2Bytes ||
    h == c.hTimeframeExpired || h == c.hInvalidDaliFrame || h == c.hEcho

end Sys2Proof.Machine
end

