-- ==== Sys2Proof/Syntax.lean ====
section
/-! DEFINITION. The instructions: one constructor per row of spec/opcode_table.json, and the fetch word they are
decoded from.  The block executes no program: its "instructions" are the operations of R5. -/

namespace Sys2Proof

/-- The operations of the block, one constructor per row of the opcode table, in the table's order. -/
inductive Instr where
  /-- WIRE.START: the wire source offers the start marker (R70) -/
  | wireStart
  /-- WIRE.STOP: the wire source offers the stop marker (R70) -/
  | wireStop
  /-- WIRE.ESC: the wire source offers the escape marker (R70, R72) -/
  | wireEsc
  /-- WIRE.LITERAL: the wire source offers a byte that is no marker (R70) -/
  | wireLiteral (b : Byte)
  /-- MSG.DALI_COMMAND (R166) -/
  | msgDaliCommand
  /-- MSG.DALI_RCV_1BYTES (R162) -/
  | msgDaliRcv1Bytes
  /-- MSG.DALI_RCV_2BYTES (R163) -/
  | msgDaliRcv2Bytes
  /-- MSG.TIMEFRAME_EXPIRED (R161) -/
  | msgTimeframeExpired
  /-- MSG.INVALID_DALI_FRAME (R164) -/
  | msgInvalidDaliFrame
  /-- MSG.ECHO (R165) -/
  | msgEcho
  /-- MSG.UNKNOWN: `h` is the header byte, 0x00 for the empty frame (R167, R168) -/
  | msgUnknown (h : Byte)
  /-- STATUS: the decode of the status byte `v` (R171) -/
  | status (v : Byte)
  /-- TX.BEGIN; `x` is `tx_data`, ignored (R101) -/
  | txBegin (x : Byte)
  /-- TX.DATA, literal form (R102) -/
  | txDataLiteral (b : Byte)
  /-- TX.DATA, marker form (R103) -/
  | txDataMarker (b : Byte)
  /-- TX.DRAIN, the internal step of `TX_ESC2` (R104) -/
  | txDrain
  /-- TX.END; `x` is `tx_data`, ignored (R105) -/
  | txEnd (x : Byte)
  /-- TX.RESERVED: `tx_kind` = 3; `x` is `tx_data`, ignored (R106) -/
  | txReserved (x : Byte)
  /-- RX.START with `n` = `rx_wait_limit` (R121) -/
  | rxStart (n : Wait)
  /-- RX.BYTE in `SEEKING`, the start marker (R124) -/
  | rxByteSeekingStart
  /-- RX.BYTE in `SEEKING`, the escape marker (R125) -/
  | rxByteSeekingEsc
  /-- RX.BYTE in `SEEKING`, any other byte (R126) -/
  | rxByteSeekingOther (b : Byte)
  /-- RX.BYTE in `ESC_SEEK`, any byte (R127) -/
  | rxByteEscSeek (b : Byte)
  /-- RX.BYTE in `INFRAME`, the stop marker (R128) -/
  | rxByteInframeStop
  /-- RX.BYTE in `INFRAME`, the escape marker (R129) -/
  | rxByteInframeEsc
  /-- RX.BYTE in `INFRAME`, any other byte (R130) -/
  | rxByteInframeOther (b : Byte)
  /-- RX.BYTE in `ESC_FRAME`, any byte (R131) -/
  | rxByteEscFrame (b : Byte)
  /-- RX.IDLE (R133) -/
  | rxIdle
  /-- RX.NONE: no RX event in this cycle (R122) -/
  | rxNone
  /-- RX.READ with `i` = `rx_rd_idx` (R136) -/
  | rxRead (i : Cnt)
  deriving DecidableEq, Repr

/-- The formats of the opcode table: which port a word stands at.  The formats share no opcode space. -/
inductive Format where
  /-- `wire-byte`: 8 bits -/
  | wire
  /-- `decoded-frame header f[0]`: 8 bits -/
  | header
  /-- `status byte`: 8 bits -/
  | status
  /-- tx-item, `tx_kind` then `tx_data`: 10 bits; also the internal step TX.DRAIN -/
  | txItem
  /-- rx-event: the three-bit event vector, then the event's data byte (`wrx_data` or `rx_wait_limit`): 11 bits -/
  | rxEvent
  /-- read port, `rx_rd_idx`: 6 bits -/
  | readPort
  deriving DecidableEq, Repr

/-- What is decoded: the bits of one format, each field as wide as the spec makes it, and in the two formats whose rows
share one encoding the code of the sequencer that selects among them (R32: the sequencers stand where a program counter
would; R83: their codes and widths). -/
inductive FetchWord where
  /-- a byte the wire source offers (R70) -/
  | wire (b : Byte)
  /-- the header byte of a decoded frame (R75) -/
  | header (h : Byte)
  /-- a status byte (R78) -/
  | status (v : Byte)
  /-- `tx_kind` then `tx_data` (R82), with the code of `tx_state` -/
  | txItem (seq : BitVec 2) (bits : BitVec 10)
  /-- the event vector, then the event's data byte (R82), with the code of `rx_state` -/
  | rxEvent (seq : BitVec 3) (bits : BitVec 11)
  /-- `rx_rd_idx` (R136) -/
  | readPort (i : Cnt)
  deriving DecidableEq, Repr

/-- The format of a word. -/
def FetchWord.format : FetchWord → Format
  | .wire _ => .wire
  | .header _ => .header
  | .status _ => .status
  | .txItem _ _ => .txItem
  | .rxEvent _ _ => .rxEvent
  | .readPort _ => .readPort

end Sys2Proof
end

