-- ==== Sys2Proof/WellFormed.lean ====
section
/-! DEFINITION. Which instruction terms stand for a row of the opcode table: the operand of a row that stands for a
class of bytes is of that class. -/

namespace Sys2Proof

open Sys2Proof.Machine

/-- The operand is of the class its row names (R70, R75, R102, R103, R126, R130). -/
def Instr.wf : Instr → Bool
  | .wireLiteral b => !isMarker dali b
  | .msgUnknown h => !isKnownHeader dali h
  | .txDataLiteral b => !isMarker dali b
  | .txDataMarker b => isMarker dali b
  | .rxByteSeekingOther b => !(b == dali.start) && !(b == dali.esc)
  | .rxByteInframeOther b => !(b == dali.stop) && !(b == dali.esc)
  | .wireStart => true
  | .wireStop => true
  | .wireEsc => true
  | .msgDaliCommand => true
  | .msgDaliRcv1Bytes => true
  | .msgDaliRcv2Bytes => true
  | .msgTimeframeExpired => true
  | .msgInvalidDaliFrame => true
  | .msgEcho => true
  | .status _ => true
  | .txBegin _ => true
  | .txDrain => true
  | .txEnd _ => true
  | .txReserved _ => true
  | .rxStart _ => true
  | .rxByteSeekingStart => true
  | .rxByteSeekingEsc => true
  | .rxByteEscSeek _ => true
  | .rxByteInframeStop => true
  | .rxByteInframeEsc => true
  | .rxByteEscFrame _ => true
  | .rxIdle => true
  | .rxNone => true
  | .rxRead _ => true

end Sys2Proof
end

