-- ==== Sys2Proof/Decode.lean ====
section
/-! DEFINITION. The decoder, total on fetch words and rejecting by name; the encoder written from the same tables;
the numbers of the opcode table.  Encodings: R70, R75, R82, R83, R136. -/

namespace Sys2Proof

open Sys2Proof.Machine

/-- Why a fetch word is no instruction: the two sequencer codes that never occur. -/
inductive Reject where
  /-- `tx_state` code 3: it does not occur (R81 d, 93_implementation_defined.md U10) -/
  | txStateCode
  /-- `rx_state` code 7: it does not occur (R81 d, U10) -/
  | rxStateCode
  deriving DecidableEq, Repr

/-- `tx_kind`, above `tx_data` (the opcode table's tx-item format). -/
def itemKind (bits : BitVec 10) : BitVec 2 := (bits >>> 8).setWidth 2

/-- `tx_data`. -/
def itemData (bits : BitVec 10) : Byte := bits.setWidth 8

/-- The event vector, `rx_start and not rx_busy` its most significant bit (R82). -/
def eventVector (bits : BitVec 11) : BitVec 3 := (bits >>> 8).setWidth 3

/-- The event's data byte: `wrx_data` or `rx_wait_limit`. -/
def eventData (bits : BitVec 11) : Byte := bits.setWidth 8

/-- A TX item as it stands in the word, with the code of `tx_state`. -/
def txWord (seq : BitVec 2) (kind : BitVec 2) (data : Byte) : FetchWord := .txItem seq (kind ++ data)

/-- An RX event as it stands in the word, with the code of `rx_state`. -/
def rxWord (seq : BitVec 3) (vector : BitVec 3) (data : Byte) : FetchWord := .rxEvent seq (vector ++ data)

/-- The class of a wire byte (R70). -/
def decodeWire (b : Byte) : Instr :=
  if b = dali.start then .wireStart
  else if b = dali.stop then .wireStop
  else if b = dali.esc then .wireEsc
  else .wireLiteral b

/-- The message kind by the full header value (R75). -/
def decodeHeader (h : Byte) : Instr :=
  if h = dali.hDaliCommand then .msgDaliCommand
  else if h = dali.hDaliRcv1Bytes then .msgDaliRcv1Bytes
  else if h = dali.hDaliRcv2Bytes then .msgDaliRcv2Bytes
  else if h = dali.hTimeframeExpired then .msgTimeframeExpired
  else if h = dali.hInvalidDaliFrame then .msgInvalidDaliFrame
  else if h = dali.hEcho then .msgEcho
  else .msgUnknown h

/-- A TX item by `tx_kind` (R82); in `TX_ESC2` the only step possible is TX.DRAIN, whatever is offered (R104). -/
def decodeTx (seq : BitVec 2) (kind : BitVec 2) (data : Byte) : Except Reject Instr :=
  if seq = 3#2 then .error .txStateCode
  else if seq = 2#2 then .ok .txDrain
  else if kind = 0b01#2 then .ok (.txBegin data)
  else if kind = 0b10#2 then .ok (.txEnd data)
  else if kind = 0b11#2 then .ok (.txReserved data)
  else if isMarker dali data then .ok (.txDataMarker data)
  else .ok (.txDataLiteral data)

/-- The arm of RX.BYTE that `rx_state` and the byte's class select (R124 to R131).  Where the sequencer is not busy the
cycle has no event (R122, R137). -/
def decodeRxByte (seq : BitVec 3) (b : Byte) : Instr :=
  if seq = 1#3 then
    if b = dali.start then .rxByteSeekingStart
    else if b = dali.esc then .rxByteSeekingEsc
    else .rxByteSeekingOther b
  else if seq = 2#3 then
    if b = dali.stop then .rxByteInframeStop
    else if b = dali.esc then .rxByteInframeEsc
    else .rxByteInframeOther b
  else if seq = 3#3 then .rxByteEscSeek b
  else if seq = 4#3 then .rxByteEscFrame b
  else .rxNone

/-- An RX event by the three-bit vector, fixed priority left to right (R82). -/
def decodeRx (seq vector : BitVec 3) (data : Byte) : Except Reject Instr :=
  if seq = 7#3 then .error .rxStateCode
  else if vector.getLsbD 2 then .ok (.rxStart data)
  else if vector.getLsbD 1 then .ok (decodeRxByte seq data)
  else if vector.getLsbD 0 then .ok .rxIdle
  else .ok .rxNone

/-- The decoder: it refuses the two sequencer codes that never occur, and nothing else. -/
def decode : FetchWord → Except Reject Instr
  | .wire b => .ok (decodeWire b)
  | .header h => .ok (decodeHeader h)
  | .status v => .ok (.status v)
  | .txItem seq bits => decodeTx seq (itemKind bits) (itemData bits)
  | .rxEvent seq bits => decodeRx seq (eventVector bits) (eventData bits)
  | .readPort i => .ok (.rxRead i)

/-- The encoder: the fetch word of a well-formed instruction, from the same tables.  Where several sequencer codes
decode to the row, it takes the one in which the operation is accepted. -/
def encode : Instr → FetchWord
  | .wireStart => .wire dali.start
  | .wireStop => .wire dali.stop
  | .wireEsc => .wire dali.esc
  | .wireLiteral b => .wire b
  | .msgDaliCommand => .header dali.hDaliCommand
  | .msgDaliRcv1Bytes => .header dali.hDaliRcv1Bytes
  | .msgDaliRcv2Bytes => .header dali.hDaliRcv2Bytes
  | .msgTimeframeExpired => .header dali.hTimeframeExpired
  | .msgInvalidDaliFrame => .header dali.hInvalidDaliFrame
  | .msgEcho => .header dali.hEcho
  | .msgUnknown h => .header h
  | .status v => .status v
  | .txBegin x => txWord 0#2 0b01#2 x
  | .txDataLiteral b => txWord 1#2 0b00#2 b
  | .txDataMarker b => txWord 1#2 0b00#2 b
  | .txDrain => txWord 2#2 0b00#2 0x00#8
  | .txEnd x => txWord 1#2 0b10#2 x
  | .txReserved x => txWord 0#2 0b11#2 x
  | .rxStart n => rxWord 0#3 0b100#3 n
  | .rxByteSeekingStart => rxWord 1#3 0b010#3 dali.start
  | .rxByteSeekingEsc => rxWord 1#3 0b010#3 dali.esc
  | .rxByteSeekingOther b => rxWord 1#3 0b010#3 b
  | .rxByteEscSeek b => rxWord 3#3 0b010#3 b
  | .rxByteInframeStop => rxWord 2#3 0b010#3 dali.stop
  | .rxByteInframeEsc => rxWord 2#3 0b010#3 dali.esc
  | .rxByteInframeOther b => rxWord 2#3 0b010#3 b
  | .rxByteEscFrame b => rxWord 4#3 0b010#3 b
  | .rxIdle => rxWord 1#3 0b001#3 0x00#8
  | .rxNone => rxWord 0#3 0b000#3 0x00#8
  | .rxRead i => .readPort i

/-- The word of a format by its number, a sequencer code and the format's bits; none where a number does not fit its
field. -/
def wordOfFields (format seq bits : Nat) : Option FetchWord :=
  match format with
  | 0 => if seq = 0 ∧ bits < 2 ^ 8 then some (.wire (BitVec.ofNat 8 bits)) else none
  | 1 => if seq = 0 ∧ bits < 2 ^ 8 then some (.header (BitVec.ofNat 8 bits)) else none
  | 2 => if seq = 0 ∧ bits < 2 ^ 8 then some (.status (BitVec.ofNat 8 bits)) else none
  | 3 => if seq < 2 ^ 2 ∧ bits < 2 ^ 10 then some (.txItem (BitVec.ofNat 2 seq) (BitVec.ofNat 10 bits)) else none
  | 4 => if seq < 2 ^ 3 ∧ bits < 2 ^ 11 then some (.rxEvent (BitVec.ofNat 3 seq) (BitVec.ofNat 11 bits)) else none
  | 5 => if seq = 0 ∧ bits < 2 ^ 6 then some (.readPort (BitVec.ofNat 6 bits)) else none
  | _ => none

/-- The fetch word that a number of the opcode table stands for.  The table's formats share no opcode space and a row's
bits do not name their format, so the width chooses (assumption 6): up to 8 bits, the six header values are message
headers and every other value is a wire byte; up to 16 bits, a TX item; up to 24 bits, the word names its format
(bits 21 to 19) and its sequencer code (bits 18 to 16). -/
def tableWord (nbits w : Nat) : Option FetchWord :=
  if 2 ^ nbits ≤ w then none
  else if nbits ≤ 8 then
    some (if isKnownHeader dali (BitVec.ofNat 8 w) then .header (BitVec.ofNat 8 w) else .wire (BitVec.ofNat 8 w))
  else if nbits ≤ 16 then wordOfFields 3 0 w
  else if nbits ≤ 24 then wordOfFields (w / 2 ^ 19) (w / 2 ^ 16 % 2 ^ 3) (w % 2 ^ 16)
  else none

/-- The instruction the decoder reads from an instruction whose bits are `w`, numbered as the opcode table numbers
them. -/
def decodeTableWord (nbits w : Nat) : Option Instr :=
  (tableWord nbits w).bind fun fw => (decode fw).toOption

end Sys2Proof
end

