-- ==== Sys2Proof/Machine/State.lean ====
section
/-! DEFINITION. The state as plain data: the registers of R20, the two byte streams of R50, what the host has sampled,
and the environment's script; the reasons a step can stop; the state after reset (R37). -/

namespace Sys2Proof.Machine

/-- `tx_state`, the stuffer's sequencer (R21); its code is `TxState.code` (R83). -/
inductive TxState where
  /-- `TX_IDLE`: no frame open -/
  | idle
  /-- `TX_OPEN`: start marker emitted, stop marker not yet emitted -/
  | opened
  /-- `TX_ESC2`: the escape marker of an escape pair is emitted and the escaped byte is owed -/
  | esc2
  deriving DecidableEq, Repr

/-- `rx_state`, the unstuffer's sequencer (R23); its code is `RxState.code` (R83). -/
inductive RxState where
  /-- `IDLE`: between reset and the first invocation -/
  | idle
  /-- `SEEKING`: no frame open -/
  | seeking
  /-- `INFRAME`: start marker seen, not escaped -/
  | inframe
  /-- `ESC_SEEK`: escape marker seen while `SEEKING` -/
  | escSeek
  /-- `ESC_FRAME`: escape marker seen while `INFRAME` -/
  | escFrame
  /-- `COMPLETE`: stop marker seen while `INFRAME` -/
  | complete
  /-- `EXHAUSTED`: the invocation gave up -/
  | exhausted
  deriving DecidableEq, Repr

/-- `rx_cause`: why the last invocation gave up (R29). -/
inductive Cause where
  /-- `CAUSE_NONE` -/
  | none
  /-- `CAUSE_BYTE_CAP` -/
  | byteCap
  /-- `CAUSE_WAIT_LIMIT` -/
  | waitLimit
  deriving DecidableEq, Repr

/-- The seven message kinds (R75, R160). -/
inductive MsgKind where
  | unknown
  | daliCommand
  | daliRcv1Bytes
  | daliRcv2Bytes
  | timeframeExpired
  | invalidDaliFrame
  | echo
  deriving DecidableEq, Repr

/-- A message: what `Parse` returns (R160). -/
structure Message where
  kind : MsgKind
  header : Byte
  status : Byte
  d0 : Byte
  d1 : Byte
  lenErr : Bool
  deriving DecidableEq, Repr

/-- The eight flags of a status byte (R78, R171). -/
structure StatusFlags where
  busErr : Bool
  busy : Bool
  overrun : Bool
  frameError : Bool
  validReply : Bool
  timeframe : Bool
  rcv2Byte : Bool
  rcv1Byte : Bool
  deriving DecidableEq, Repr

/-- The accumulator `acc[0..38]` (R24, R50 a): a list of index and byte in one canonical form, `Memory.wf`.
What an unlisted index reads as is `Memory.fill`. -/
abbrev Memory := List Host.Cell

/-- `TxState` of R20: the registers of the TX unit. -/
structure TxUnit where
  /-- `tx_state` (R21) -/
  state : TxState
  /-- `tx_hold` (R22) -/
  hold : Byte
  deriving DecidableEq, Repr

/-- `RxState` of R20: the seven registers of the RX unit. -/
structure RxUnit where
  /-- `rx_state` (R23) -/
  state : RxState
  /-- `acc` (R24) -/
  acc : Memory
  /-- `acc_len` (R25) -/
  accLen : Cnt
  /-- `byte_cnt` (R26) -/
  byteCnt : Cnt
  /-- `wait_cnt` (R27) -/
  waitCnt : Wait
  /-- `wait_lim` (R28) -/
  waitLim : Wait
  /-- `rx_cause` (R29) -/
  cause : Cause
  deriving DecidableEq, Repr

/-- The model's own: what the host last sampled on the block's output ports.  The block stores none of it; the
combinational operations (the TX handshake, RX.READ, MSG.*, STATUS) show their results here (assumption 2). -/
structure HostView where
  /-- `tx_ready` in the last TX cycle (R107) -/
  txReady : Bool
  /-- `tx_err` in the last TX cycle (R106, R107) -/
  txErr : Bool
  /-- `rx_rd_data` at the last RX.READ (R136) -/
  rdData : Byte
  /-- the `msg_*` ports at the last MSG operation (R172) -/
  msg : Message
  /-- `rx_ok` at that moment, which the host must qualify the message with (R172) -/
  msgOk : Bool
  /-- the flags of the last status byte decoded (R171) -/
  flags : StatusFlags
  deriving DecidableEq, Repr

/-- The TX unit's inputs in one cycle (R34). -/
structure TxIn where
  /-- `tx_valid` -/
  valid : Bool
  /-- `tx_kind` -/
  kind : BitVec 2
  /-- `tx_data` -/
  data : Byte
  /-- `wtx_ready` -/
  wtxReady : Bool
  deriving DecidableEq, Repr

/-- The model's own: what the environment does in one step (assumption 1). -/
inductive Offer where
  /-- one cycle of the TX unit with these inputs (R107) -/
  | tx (i : TxIn)
  /-- one cycle of the RX unit with these host inputs; the wire source offers the head of its queue (R122) -/
  | rx (start : Bool) (limit : Wait) (tick : Bool)
  /-- the transport delivers a byte to the wire source, which offers the head of its queue in the same cycle (R36) -/
  | wire (b : Byte)
  /-- the host reads the accumulator at an index (R136) -/
  | read (i : Cnt)
  /-- the host takes the parser's outputs (R172) -/
  | parse
  /-- the host decodes a status byte (R171) -/
  | status (v : Byte)
  /-- an event named outright by its fetch word: the event level of R6 (assumptions 1 and 18) -/
  | event (w : FetchWord)
  /-- `rst` is sampled high (R210) -/
  | rst
  /-- the platform flushes the wire source's queue (R212, R216) -/
  | flush
  deriving DecidableEq, Repr

/-- Why the machine stops with a fault. -/
inductive Fault where
  /-- Raised by the appending arms of RX.BYTE and by the wire operations that run them when `acc_len` is no index of the
  accumulator: the spec gives `acc` the indices 0 to 38 (R24) and proves that no run gets here (R38 item 3).  Safe: the
  machine stops where the spec says nothing can happen. -/
  | accOverflow
  deriving DecidableEq, Repr

/-- Why an instruction has no meaning. -/
inductive Refusal where
  /-- Raised by an arm of exec for an instruction that has no meaning yet (none in this model).  Safe. -/
  | notModelled (mnemonic : String)
  /-- Raised by step when the environment names an event by a word with a sequencer code that never occurs, `tx_state` 3
  or `rx_state` 7, which 93_implementation_defined.md U10 has a model refuse (R81 d).  Safe: no such word comes from a
  port, and no instruction of the opcode table is refused. -/
  | undecodable (r : Reject)
  deriving DecidableEq, Repr

/-- The state: the spec's registers `tx` and `rx` (R20), the byte streams (R50 b and c), and the model's own host view
and script (assumptions 13, 2 and 1). -/
structure State where
  /-- the TX unit's registers -/
  tx : TxUnit
  /-- the RX unit's registers -/
  rx : RxUnit
  /-- the wire source's queue: delivered and not yet consumed, the oldest first (R36, R50 b) -/
  wireIn : List Byte
  /-- the outbound wire stream: every byte the wire sink has taken, the oldest first (R50 c) -/
  wireOut : List Byte
  /-- what the host last sampled -/
  host : HostView
  /-- what the environment does in the coming steps, the next first -/
  script : List Offer
  deriving DecidableEq, Repr

/-- `tx_state` and `tx_hold` after reset (R37). -/
def TxUnit.reset : TxUnit := ⟨.idle, 0x00#8⟩

/-- The RX registers after reset (R37).  `acc` is unspecified there; the model's power-on accumulator lists nothing
(assumption 3). -/
def RxUnit.reset : RxUnit where
  state := .idle
  acc := []
  accLen := 0#6
  byteCnt := 0#6
  waitCnt := 0#8
  waitLim := 0#8
  cause := .none

/-- What the ports show after reset (R37: `msg_kind` = `K_UNKNOWN` with `msg_len_err` = 1, the rest 0). -/
def HostView.reset : HostView where
  txReady := false
  txErr := false
  rdData := 0x00#8
  msg := ⟨.unknown, 0x00#8, 0x00#8, 0x00#8, 0x00#8, true⟩
  msgOk := false
  flags := ⟨false, false, false, false, false, false, false, false⟩

/-- The machine right after reset (R37), with nothing on either stream and an environment that does nothing. -/
def State.reset : State where
  tx := TxUnit.reset
  rx := RxUnit.reset
  wireIn := []
  wireOut := []
  host := HostView.reset
  script := []

end Sys2Proof.Machine
end

