-- ==== Sys2Proof/Machine/Memory.lean ====
section
/-! DEFINITION. The accumulator's cells: reading and writing one byte, and the canonical form (R24, R50, R53, R54:
every access is one byte wide). -/

namespace Sys2Proof.Machine

/-- What an unlisted cell reads as.  The spec leaves the cells unspecified after reset and masks them
(R37, 93_implementation_defined.md U7); assumption 3. -/
def Memory.fill : Byte := 0x00#8

/-- The byte in cell `a`. -/
def Memory.read : Memory → Nat → Byte
  | [], _ => Memory.fill
  | (k, v) :: rest, a => if k = a then v else Memory.read rest a

/-- `MemWrite(a, 1, b)`: keeps the canonical form. -/
def Memory.write : Memory → Nat → Byte → Memory
  | [], a, b => if b = Memory.fill then [] else [(a, b)]
  | (k, v) :: rest, a, b =>
    if a < k then (if b = Memory.fill then (k, v) :: rest else (a, b) :: (k, v) :: rest)
    else if a = k then (if b = Memory.fill then rest else (a, b) :: rest)
    else (k, v) :: Memory.write rest a b

/-- Every listed index is above `low`, they rise strictly, and no entry equals what an unlisted index reads as. -/
def Memory.wfFrom : Nat → Memory → Bool
  | _, [] => true
  | low, (k, v) :: rest => decide (low ≤ k) && !(v == Memory.fill) && Memory.wfFrom (k + 1) rest

/-- The canonical form. -/
def Memory.wf (m : Memory) : Bool := Memory.wfFrom 0 m

/-- Every listed index is an index of the accumulator. -/
def Memory.within (cap : Nat) (m : Memory) : Bool := m.all fun cell => decide (cell.1 < cap)

end Sys2Proof.Machine
end

