-- ==== Sys2Proof/Machine/Flags.lean ====
section
/-! DEFINITION. Every flag the spec gives (R33): the block status flags, which are functions of state and inputs and
are stored nowhere, the eight flags of a status byte (R171), and the codes of R83. -/

namespace Sys2Proof.Machine

/-- `Busy(rx)`: the RX unit is inside an invocation; `rx_busy` and `wrx_ready` (R33, R122). -/
def RxUnit.busy (r : RxUnit) : Bool :=
  match r.state with
  | .seeking => true
  | .inframe => true
  | .escSeek => true
  | .escFrame => true
  | .idle => false
  | .complete => false
  | .exhausted => false

/-- `rx_done` (R33). -/
def RxUnit.done (r : RxUnit) : Bool := r.state == .complete || r.state == .exhausted

/-- `rx_ok` (R33). -/
def RxUnit.ok (r : RxUnit) : Bool := r.state == .complete

/-- `tx_busy` (R33). -/
def TxUnit.busy (t : TxUnit) : Bool := !(t.state == .idle)

/-- An offered item is legal (R106). -/
def TxUnit.legal (t : TxUnit) (kind : BitVec 2) : Bool :=
  match t.state with
  | .idle => kind == 0b01#2
  | .opened => kind == 0b00#2 || kind == 0b10#2
  | .esc2 => false

/-- `tx_err`: an item is offered, it is judged, and it is illegal (R106, R107). -/
def TxUnit.err (t : TxUnit) (i : TxIn) : Bool := i.valid && !(t.state == .esc2) && !t.legal i.kind

/-- `tx_ready`, which does not look at `tx_valid` (R107); `legal` is false in `TX_ESC2`. -/
def TxUnit.ready (t : TxUnit) (i : TxIn) : Bool := i.wtxReady && t.legal i.kind

/-- `StatusDecode(v)` (R171); bit i of the byte has weight 2 to the i (assumption 11, PRESUMED). -/
def statusDecode (v : Byte) : StatusFlags where
  busErr := v.getLsbD 7
  busy := v.getLsbD 6
  overrun := v.getLsbD 5
  frameError := v.getLsbD 4
  validReply := v.getLsbD 3
  timeframe := v.getLsbD 2
  rcv2Byte := v.getLsbD 1
  rcv1Byte := v.getLsbD 0

/-- The code of `tx_state` (R21, R83). -/
def TxState.code : TxState → BitVec 2
  | .idle => 0#2
  | .opened => 1#2
  | .esc2 => 2#2

/-- The code of `rx_state` (R23, R83). -/
def RxState.code : RxState → BitVec 3
  | .idle => 0#3
  | .seeking => 1#3
  | .inframe => 2#3
  | .escSeek => 3#3
  | .escFrame => 4#3
  | .complete => 5#3
  | .exhausted => 6#3

/-- The code of `rx_cause` (R29, R83). -/
def Cause.code : Cause → BitVec 2
  | .none => 0#2
  | .byteCap => 1#2
  | .waitLimit => 2#2

/-- The code of `msg_kind` (R83). -/
def MsgKind.code : MsgKind → BitVec 3
  | .unknown => 0#3
  | .daliCommand => 1#3
  | .daliRcv1Bytes => 2#3
  | .daliRcv2Bytes => 3#3
  | .timeframeExpired => 4#3
  | .invalidDaliFrame => 5#3
  | .echo => 6#3

end Sys2Proof.Machine
end

