-- ==== Sys2Proof/Machine/Operands.lean ====
section
/-! DEFINITION. Every operand form: the decoded frame and the guarded read of it (R74, R160), the masked read of the
accumulator (R136), the unit of a payload byte (R71, R100), and which arm of RX.BYTE appends. -/

namespace Sys2Proof.Machine

/-- `MemRead(i, 1)`: the stored byte below `acc_len`, else 0x00 (R136). -/
def RxUnit.readAcc (r : RxUnit) (i : Nat) : Byte :=
  if i < r.accLen.toNat then Memory.read r.acc i else 0x00#8

/-- The decoded frame `[acc[0], ..., acc[acc_len-1]]` (R51, R74). -/
def RxUnit.frame (r : RxUnit) : List Byte := (List.range r.accLen.toNat).map (Memory.read r.acc)

/-- `G(f, i)`: the guarded read of a decoded frame (R160). -/
def guardedRead (f : List Byte) (i : Nat) : Byte := f.getD i 0x00#8

/-- `Unit(b)`: what the stuffer emits for one payload byte (R71, R100). -/
def stuffByte (c : Config) (b : Byte) : List Byte := if isMarker c b then [c.esc, b] else [b]

/-- A byte consumed in this state is appended (R130, R131). -/
def RxUnit.appends (c : Config) (r : RxUnit) (b : Byte) : Bool :=
  match r.state with
  | .inframe => !(b == c.stop) && !(b == c.esc)
  | .escFrame => true
  | .idle => false
  | .seeking => false
  | .escSeek => false
  | .complete => false
  | .exhausted => false

/-- `acc_len` is an index of the accumulator, so that `Append` writes inside it (R24, R38 item 3). -/
def RxUnit.hasRoom (c : Config) (r : RxUnit) : Bool := decide (r.accLen.toNat < accCap c)

end Sys2Proof.Machine
end

