-- ==== Sys2Proof/Machine/Ops.lean ====
section
/-! DEFINITION. The named operations the meanings share: the give-up (the block's one exception, R195) and the return
from it (R196, R121), counting, appending, the byte-cap check, the reference step `RxStep` (R138), emitting a wire
byte, the host's samples, and reset (R210). -/

namespace Sys2Proof.Machine

/-! ### The RX unit -/

/-- `raise GiveUp(cause)`, the only exception: it writes `rx_state` and `rx_cause` and nothing else (R195). -/
def giveUp (cause : Cause) (r : RxUnit) : RxUnit := { r with state := .exhausted, cause := cause }

/-- A fresh invocation, the only way out of a give-up but reset (R121, R196).  The cells of `acc` are not cleared. -/
def startInvocation (n : Wait) (r : RxUnit) : RxUnit :=
  { r with state := .seeking, accLen := 0#6, byteCnt := 0#6, waitCnt := 0#8, waitLim := n, cause := .none }

/-- Part (1) of every RX.BYTE step (R123). -/
def countByte (c : Config) (r : RxUnit) : RxUnit :=
  { r with byteCnt := r.byteCnt + 1, waitCnt := if c.waitReloadOnByte then 0#8 else r.waitCnt }

/-- `Append(s, b)` (00_scope.md section 5; R130, R131). -/
def append (b : Byte) (r : RxUnit) : RxUnit :=
  { r with acc := Memory.write r.acc r.accLen.toNat b, accLen := r.accLen + 1 }

/-- `rx_state <- S`. -/
def goto (S : RxState) (r : RxUnit) : RxUnit := { r with state := S }

/-- Part (3) of every RX.BYTE step: the byte-cap check (R132). -/
def capCheck (c : Config) (r : RxUnit) : RxUnit :=
  if r.state ≠ .complete ∧ r.byteCnt.toNat = c.byteCap then giveUp .byteCap r else r

/-- An RX.BYTE step around its arm: count, arm, cap check, in this order (R123, R194). -/
def byteStep (c : Config) (arm : RxUnit → RxUnit) (r : RxUnit) : RxUnit := capCheck c (arm (countByte c r))

/-- The arm that `rx_state` and the byte's class select (R124 to R131, R138). -/
def byteArm (c : Config) (S : RxState) (b : Byte) : RxUnit → RxUnit :=
  match S with
  | .seeking =>
    if b = c.start then fun r => { r with state := .inframe, accLen := 0#6 }
    else if b = c.esc then goto .escSeek
    else id
  | .escSeek => goto .seeking
  | .inframe =>
    if b = c.stop then goto .complete
    else if b = c.esc then goto .escFrame
    else append b
  | .escFrame => fun r => goto .inframe (append b r)
  | .idle => id
  | .complete => id
  | .exhausted => id

/-- RX.IDLE in a busy state: the addition and the comparison are on natural numbers (R133). -/
def idlePoll (r : RxUnit) : RxUnit :=
  let counted := { r with waitCnt := r.waitCnt + 1 }
  if r.waitLim.toNat ≤ r.waitCnt.toNat + 1 then giveUp .waitLimit counted else counted

/-- An input of the RX unit at the event level (R138). -/
inductive RxEvent where
  | start (n : Wait)
  | byte (b : Byte)
  | idle
  deriving DecidableEq, Repr

/-- `RxStep` (R138): an event that cannot occur leaves the registers unchanged. -/
def rxStep (c : Config) (r : RxUnit) : RxEvent → RxUnit
  | .start n => if r.busy then r else startInvocation n r
  | .byte b => if r.busy then byteStep c (byteArm c r.state b) r else r
  | .idle => if r.busy then idlePoll r else r

/-- The wire source offers `b`, so that an RX.BYTE step can have the operand `b`: `b` is the oldest byte of the queue
(R54, R56, R123), or nothing is queued and `b` is delivered in this same cycle, which only an event named outright can
say (assumption 18, DESIGN CHOICE). -/
def State.offersByte (s : State) (b : Byte) : Bool := s.wireIn.headD b == b

/-- The RX unit takes the byte that the wire source offered: the byte leaves the queue and the registers become `r`
(R54, R123).  With nothing queued there is nothing to remove (assumption 18). -/
def State.consume (s : State) (r : RxUnit) : State := { s with rx := r, wireIn := s.wireIn.tail }

/-- The RX unit consumes the byte `b` in whichever arm its state selects.  The append of an impossible `acc_len` faults. -/
def consumeByte (c : Config) (b : Byte) (s : State) : Host.Outcome State Fault Refusal :=
  if s.rx.appends c b && !s.rx.hasRoom c then .fault .accOverflow
  else .next (s.consume (rxStep c s.rx (.byte b)))

/-- The transport delivers `b` to the wire source.  While the RX unit is busy the head of the queue is consumed in the
same cycle; otherwise `wrx_ready` = 0 and the bytes stay queued (R36, R54, R122, R134). -/
def deliverByte (c : Config) (b : Byte) (s : State) : Host.Outcome State Fault Refusal :=
  let queued := { s with wireIn := s.wireIn ++ [b] }
  if s.rx.busy then consumeByte c (s.wireIn.headD b) queued else .next queued

/-! ### The TX unit -/

/-- `emit b`: the wire sink takes the byte (R50 c); the TX unit's registers become `t`. -/
def State.emit (s : State) (b : Byte) (t : TxUnit) : State := { s with tx := t, wireOut := s.wireOut ++ [b] }

/-- What the host sees of the TX handshake in this cycle (R107). -/
def State.txSample (s : State) (ready err : Bool) : State :=
  { s with host := { s.host with txReady := ready, txErr := err } }

/-- The item is accepted and the byte emitted in one step (R107: outside `TX_ESC2` the two are one condition). -/
def acceptItem (b : Byte) (t : TxUnit) (s : State) : State := (s.emit b t).txSample true false

/-- The item is illegal: it is not accepted, no register changes, no byte is emitted, `tx_err` = 1 (R106). -/
def rejectItem (s : State) : State := s.txSample false true

/-- The item waits and is not judged: `tx_ready` = 0, `tx_err` = 0 (R104, R106). -/
def holdItem (s : State) : State := s.txSample false false

/-! ### The host's samples -/

/-- The host takes the parser's outputs and, of the status byte, its eight flags (R171, R172). -/
def State.sampleMsg (s : State) (m : Message) : State :=
  { s with host := { s.host with msg := m, msgOk := s.rx.ok, flags := statusDecode m.status } }

/-- The host takes the flags of a status byte (R171). -/
def State.sampleFlags (s : State) (f : StatusFlags) : State := { s with host := { s.host with flags := f } }

/-- The host takes `rx_rd_data` (R136). -/
def State.sampleRead (s : State) (b : Byte) : State := { s with host := { s.host with rdData := b } }

/-! ### Reset and the script -/

/-- The RX registers at a reset edge: the values of R37; the cells of `acc` are not reset (R37, decision D14;
assumption 14, DEDUCED). -/
def RxUnit.resetFrom (r : RxUnit) : RxUnit := { RxUnit.reset with acc := r.acc }

/-- A reset edge of a running block: both units' registers are reset and both byte streams are untouched (R210, R211). -/
def State.applyReset (s : State) : State := { s with tx := TxUnit.reset, rx := s.rx.resetFrom }

/-- The platform flushes the wire source's queue (R212, R216; assumption 15, DEDUCED). -/
def State.flushWire (s : State) : State := { s with wireIn := [] }

/-- The step's offer is over (assumption 1). -/
def State.advance (s : State) : State := { s with script := s.script.tail }

end Sys2Proof.Machine
end

