-- ==== Sys2Proof/Machine/Parser.lean ====
section
/-! DEFINITION. The message parser (42_message_parser.md): `Parse` with one rule per kind, the header table, the
outbound layouts, and the meanings of the MSG operations and of STATUS.  The parser writes no register; the host
samples its outputs.  An MSG row whose header is not the present frame's is not the row selected: nothing happens
(assumption 5). -/

namespace Sys2Proof.Machine

/-- The kind of a header value (R75). -/
def kindOfHeader (c : Config) (h : Byte) : MsgKind :=
  if h = c.hTimeframeExpired then .timeframeExpired
  else if h = c.hDaliRcv1Bytes then .daliRcv1Bytes
  else if h = c.hDaliRcv2Bytes then .daliRcv2Bytes
  else if h = c.hInvalidDaliFrame then .invalidDaliFrame
  else if h = c.hEcho then .echo
  else if h = c.hDaliCommand then .daliCommand
  else .unknown

/-- The header value of a kind (R75); `UNKNOWN` has none. -/
def headerOfKind (c : Config) : MsgKind → Option Byte
  | .timeframeExpired => some c.hTimeframeExpired
  | .daliRcv1Bytes => some c.hDaliRcv1Bytes
  | .daliRcv2Bytes => some c.hDaliRcv2Bytes
  | .invalidDaliFrame => some c.hInvalidDaliFrame
  | .echo => some c.hEcho
  | .daliCommand => some c.hDaliCommand
  | .unknown => none

/-- `need`: the least decoded-frame length that holds every field of the kind (R80). -/
def MsgKind.need : MsgKind → Nat
  | .timeframeExpired => 2
  | .daliRcv1Bytes => 3
  | .daliRcv2Bytes => 4
  | .invalidDaliFrame => 2
  | .echo => 2
  | .daliCommand => 1
  | .unknown => 1

/-- The message of a `TIMEFRAME_EXPIRED` frame (R161). -/
def parseTimeframeExpired (f : List Byte) : Message where
  kind := .timeframeExpired
  header := guardedRead f 0
  status := guardedRead f 1
  d0 := 0x00#8
  d1 := 0x00#8
  lenErr := decide (f.length < 2)

/-- The message of a `DALI_RCV_1BYTES` frame (R162). -/
def parseDaliRcv1Bytes (f : List Byte) : Message where
  kind := .daliRcv1Bytes
  header := guardedRead f 0
  status := guardedRead f 1
  d0 := guardedRead f 2
  d1 := 0x00#8
  lenErr := decide (f.length < 3)

/-- The message of a `DALI_RCV_2BYTES` frame (R163). -/
def parseDaliRcv2Bytes (f : List Byte) : Message where
  kind := .daliRcv2Bytes
  header := guardedRead f 0
  status := guardedRead f 1
  d0 := guardedRead f 2
  d1 := guardedRead f 3
  lenErr := decide (f.length < 4)

/-- The message of an `INVALID_DALI_FRAME` frame (R164). -/
def parseInvalidDaliFrame (f : List Byte) : Message where
  kind := .invalidDaliFrame
  header := guardedRead f 0
  status := guardedRead f 1
  d0 := 0x00#8
  d1 := 0x00#8
  lenErr := decide (f.length < 2)

/-- The message of an `ECHO` frame: no status byte, the data byte at offset 1 (R165). -/
def parseEcho (f : List Byte) : Message where
  kind := .echo
  header := guardedRead f 0
  status := 0x00#8
  d0 := guardedRead f 1
  d1 := 0x00#8
  lenErr := decide (f.length < 2)

/-- The message of a received `DALI_COMMAND` frame: nothing is extracted (R166). -/
def parseDaliCommand (f : List Byte) : Message where
  kind := .daliCommand
  header := guardedRead f 0
  status := 0x00#8
  d0 := 0x00#8
  d1 := 0x00#8
  lenErr := false

/-- The message of a frame whose header has no kind (R167), and of the empty frame (R168), whose guarded header
reads 0x00. -/
def parseUnknown (f : List Byte) : Message where
  kind := .unknown
  header := guardedRead f 0
  status := 0x00#8
  d0 := 0x00#8
  d1 := 0x00#8
  lenErr := f.isEmpty

/-- `Parse(f)` (R160): dispatch on the first byte alone. -/
def parse (c : Config) (f : List Byte) : Message :=
  match f with
  | [] => parseUnknown []
  | h :: _ =>
    match kindOfHeader c h with
    | .timeframeExpired => parseTimeframeExpired f
    | .daliRcv1Bytes => parseDaliRcv1Bytes f
    | .daliRcv2Bytes => parseDaliRcv2Bytes f
    | .invalidDaliFrame => parseInvalidDaliFrame f
    | .echo => parseEcho f
    | .daliCommand => parseDaliCommand f
    | .unknown => parseUnknown f

/-- `value8`, the backward-frame value (R79, R162). -/
def Message.value8 (m : Message) : Nat := m.d0.toNat

/-- `value16`, the forward-frame value, first byte most significant (R52, R163; assumption 12, DESIGN CHOICE). -/
def Message.value16 (m : Message) : Nat := m.d0.toNat * 256 + m.d1.toNat

/-- `echoed` (R165). -/
def Message.echoed (m : Message) : Byte := m.d0

/-- `BuildCommand` (R76, R174): a layout the host produces, given as a reference. -/
def buildCommand (c : Config) (address opcode priority delay : Byte) (isConfig : Bool) : List Byte :=
  if isConfig then [c.hDaliCommand, address, opcode, priority, delay, address, opcode, 0x00#8, delay]
  else [c.hDaliCommand, address, opcode, priority, delay]

/-- `BuildEcho` (R77, R174). -/
def buildEcho (c : Config) (b : Byte) : List Byte := [c.hEcho, b]

/-- The frame in the accumulator begins with the header `h`. -/
def RxUnit.hasHeader (r : RxUnit) (h : Byte) : Bool := r.frame.head? == some h

/-- MSG.DALI_COMMAND (R166). -/
def execMsgDaliCommand (s : State) : Host.Outcome State Fault Refusal :=
  .next (if s.rx.hasHeader dali.hDaliCommand then s.sampleMsg (parseDaliCommand s.rx.frame) else s)

/-- MSG.DALI_RCV_1BYTES (R162). -/
def execMsgDaliRcv1Bytes (s : State) : Host.Outcome State Fault Refusal :=
  .next (if s.rx.hasHeader dali.hDaliRcv1Bytes then s.sampleMsg (parseDaliRcv1Bytes s.rx.frame) else s)

/-- MSG.DALI_RCV_2BYTES (R163). -/
def execMsgDaliRcv2Bytes (s : State) : Host.Outcome State Fault Refusal :=
  .next (if s.rx.hasHeader dali.hDaliRcv2Bytes then s.sampleMsg (parseDaliRcv2Bytes s.rx.frame) else s)

/-- MSG.TIMEFRAME_EXPIRED (R161). -/
def execMsgTimeframeExpired (s : State) : Host.Outcome State Fault Refusal :=
  .next (if s.rx.hasHeader dali.hTimeframeExpired then s.sampleMsg (parseTimeframeExpired s.rx.frame) else s)

/-- MSG.INVALID_DALI_FRAME (R164). -/
def execMsgInvalidDaliFrame (s : State) : Host.Outcome State Fault Refusal :=
  .next (if s.rx.hasHeader dali.hInvalidDaliFrame then s.sampleMsg (parseInvalidDaliFrame s.rx.frame) else s)

/-- MSG.ECHO (R165). -/
def execMsgEcho (s : State) : Host.Outcome State Fault Refusal :=
  .next (if s.rx.hasHeader dali.hEcho then s.sampleMsg (parseEcho s.rx.frame) else s)

/-- MSG.UNKNOWN (R167, R168): the header byte is `h`, or the frame is empty and `h` is its guarded header 0x00. -/
def execMsgUnknown (h : Byte) (s : State) : Host.Outcome State Fault Refusal :=
  .next (if guardedRead s.rx.frame 0 = h ∧ kindOfHeader dali h = .unknown then s.sampleMsg (parseUnknown s.rx.frame)
    else s)

/-- STATUS (R171). -/
def execStatus (v : Byte) (s : State) : Host.Outcome State Fault Refusal := .next (s.sampleFlags (statusDecode v))

end Sys2Proof.Machine
end

