-- ==== Sys2Proof/Machine/Stuffer.lean ====
section
/-! DEFINITION. The stuffer (40_stuffer.md): the reference function `Encode` (R100) and the meanings of the TX
operations (R101 to R106).  Not accepted, in every meaning: an illegal item is held with `tx_err` = 1, and in `TX_ESC2`
every item waits (R106). -/

namespace Sys2Proof.Machine

/-- `Encode(p)` (R100). -/
def stuff (c : Config) (p : List Byte) : List Byte := c.start :: (p.flatMap (stuffByte c) ++ [c.stop])

/-- TX.BEGIN (R101). -/
def execTxBegin (_x : Byte) (s : State) : Host.Outcome State Fault Refusal :=
  match s.tx.state with
  | .idle => .next (acceptItem dali.start { s.tx with state := .opened } s)
  | .opened => .next (rejectItem s)
  | .esc2 => .next (holdItem s)

/-- TX.DATA, literal form (R102).  A marker operand is not this form: nothing happens. -/
def execTxDataLiteral (b : Byte) (s : State) : Host.Outcome State Fault Refusal :=
  if isMarker dali b then .next s
  else match s.tx.state with
    | .opened => .next (acceptItem b { s.tx with state := .opened } s)
    | .idle => .next (rejectItem s)
    | .esc2 => .next (holdItem s)

/-- TX.DATA, marker form (R103).  An operand that is no marker is not this form: nothing happens. -/
def execTxDataMarker (b : Byte) (s : State) : Host.Outcome State Fault Refusal :=
  if !isMarker dali b then .next s
  else match s.tx.state with
    | .opened => .next (acceptItem dali.esc { s.tx with state := .esc2, hold := b } s)
    | .idle => .next (rejectItem s)
    | .esc2 => .next (holdItem s)

/-- TX.DRAIN (R104): accepts no item.  Outside `TX_ESC2` the step does not exist: nothing happens. -/
def execTxDrain (s : State) : Host.Outcome State Fault Refusal :=
  match s.tx.state with
  | .esc2 => .next (holdItem (s.emit s.tx.hold { s.tx with state := .opened }))
  | .idle => .next s
  | .opened => .next s

/-- TX.END (R105). -/
def execTxEnd (_x : Byte) (s : State) : Host.Outcome State Fault Refusal :=
  match s.tx.state with
  | .opened => .next (acceptItem dali.stop { s.tx with state := .idle } s)
  | .idle => .next (rejectItem s)
  | .esc2 => .next (holdItem s)

/-- TX.RESERVED: never accepted (R106). -/
def execTxReserved (_x : Byte) (s : State) : Host.Outcome State Fault Refusal :=
  match s.tx.state with
  | .idle => .next (rejectItem s)
  | .opened => .next (rejectItem s)
  | .esc2 => .next (holdItem s)

end Sys2Proof.Machine
end

