-- ==== Sys2Proof/Machine/Unstuffer.lean ====
section
/-! DEFINITION. The unstuffer (41_unstuffer.md): the meanings of the RX operations and the reference run `DecodeRun`.
An RX.BYTE row whose state or byte class is not the present one is not the row selected, and one whose byte the wire
source does not offer is no event that can occur: nothing happens (R122, R138; assumptions 5 and 18). -/

namespace Sys2Proof.Machine

/-- RX.START (R121): ignored entirely while busy. -/
def execRxStart (n : Wait) (s : State) : Host.Outcome State Fault Refusal :=
  .next { s with rx := rxStep dali s.rx (.start n) }

/-- RX.BYTE in `SEEKING`, the start marker (R124). -/
def execRxByteSeekingStart (s : State) : Host.Outcome State Fault Refusal :=
  if s.rx.state = .seeking ∧ s.offersByte dali.start then
    .next (s.consume (byteStep dali (fun r => { r with state := .inframe, accLen := 0#6 }) s.rx))
  else .next s

/-- RX.BYTE in `SEEKING`, the escape marker (R125). -/
def execRxByteSeekingEsc (s : State) : Host.Outcome State Fault Refusal :=
  if s.rx.state = .seeking ∧ s.offersByte dali.esc then .next (s.consume (byteStep dali (goto .escSeek) s.rx))
  else .next s

/-- RX.BYTE in `SEEKING`, neither start nor escape marker: discarded (R126). -/
def execRxByteSeekingOther (b : Byte) (s : State) : Host.Outcome State Fault Refusal :=
  if s.rx.state = .seeking ∧ (b ≠ dali.start ∧ b ≠ dali.esc) ∧ s.offersByte b then
    .next (s.consume (byteStep dali id s.rx))
  else .next s

/-- RX.BYTE in `ESC_SEEK`: discarded whatever its value (R127). -/
def execRxByteEscSeek (b : Byte) (s : State) : Host.Outcome State Fault Refusal :=
  if s.rx.state = .escSeek ∧ s.offersByte b then .next (s.consume (byteStep dali (goto .seeking) s.rx))
  else .next s

/-- RX.BYTE in `INFRAME`, the stop marker (R128). -/
def execRxByteInframeStop (s : State) : Host.Outcome State Fault Refusal :=
  if s.rx.state = .inframe ∧ s.offersByte dali.stop then .next (s.consume (byteStep dali (goto .complete) s.rx))
  else .next s

/-- RX.BYTE in `INFRAME`, the escape marker (R129). -/
def execRxByteInframeEsc (s : State) : Host.Outcome State Fault Refusal :=
  if s.rx.state = .inframe ∧ s.offersByte dali.esc then .next (s.consume (byteStep dali (goto .escFrame) s.rx))
  else .next s

/-- RX.BYTE in `INFRAME`, neither stop nor escape marker: appended (R130). -/
def execRxByteInframeOther (b : Byte) (s : State) : Host.Outcome State Fault Refusal :=
  if s.rx.state = .inframe ∧ (b ≠ dali.stop ∧ b ≠ dali.esc) ∧ s.offersByte b then
    if s.rx.hasRoom dali then .next (s.consume (byteStep dali (append b) s.rx)) else .fault .accOverflow
  else .next s

/-- RX.BYTE in `ESC_FRAME`: appended whatever its value (R131). -/
def execRxByteEscFrame (b : Byte) (s : State) : Host.Outcome State Fault Refusal :=
  if s.rx.state = .escFrame ∧ s.offersByte b then
    if s.rx.hasRoom dali then .next (s.consume (byteStep dali (fun r => goto .inframe (append b r)) s.rx))
    else .fault .accOverflow
  else .next s

/-- RX.IDLE (R133). -/
def execRxIdle (s : State) : Host.Outcome State Fault Refusal :=
  .next { s with rx := rxStep dali s.rx .idle }

/-- RX.NONE: no event, no state change (R122). -/
def execRxNone (s : State) : Host.Outcome State Fault Refusal := .next s

/-- RX.READ (R136). -/
def execRxRead (i : Cnt) (s : State) : Host.Outcome State Fault Refusal :=
  .next (s.sampleRead (s.rx.readAcc i.toNat))

/-! ### The reference run -/

/-- An item of a poll script (R138). -/
inductive PollItem where
  /-- `B(b)`: the poll found byte `b` -/
  | byte (b : Byte)
  /-- `I`: the poll found nothing and the wait interval passed -/
  | idle
  deriving DecidableEq, Repr

/-- The RX event of a poll item. -/
def PollItem.event : PollItem → RxEvent
  | .byte b => .byte b
  | .idle => .idle

/-- What an invocation returns (R138, R139). -/
inductive RunResult where
  /-- `COMPLETE`: the decoded frame -/
  | frame (f : List Byte)
  /-- `EXHAUSTED`: absent -/
  | absent
  /-- the script ran out first -/
  | pending
  deriving DecidableEq, Repr

/-- The loop of `DecodeRun`: the registers at its end and how many items were used. -/
def pollLoop (c : Config) (r : RxUnit) : List PollItem → RxUnit × Nat
  | [] => (r, 0)
  | item :: rest =>
    if r.busy then
      let after := pollLoop c (rxStep c r item.event) rest
      (after.1, after.2 + 1)
    else (r, 0)

/-- The result an RX state stands for (R138, R139). -/
def RxUnit.result (r : RxUnit) : RunResult :=
  if r.state = .complete then .frame r.frame
  else if r.state = .exhausted then .absent
  else .pending

/-- `DecodeRun(n, script)` for a finite script, from the registers `r0` (R138): the result, the items used, the registers
at the end. -/
def decodeRun (c : Config) (r0 : RxUnit) (n : Wait) (script : List PollItem) : RunResult × Nat × RxUnit :=
  let after := pollLoop c (rxStep c r0 (.start n)) script
  (after.1.result, after.2, after.1)

/-- How many items of an infinite script the loop can look at: the byte cap times the limit, a limit of 0 acting as 1.
Each consumed byte counts to the cap, and each run of idle polls between two bytes is shorter than the limit (R138). -/
def runBound (c : Config) (n : Wait) : Nat := c.byteCap * max n.toNat 1

/-- `DecodeRun(n, script)` for an infinite script, item by item (R138).  The loop of an infinite script always ends, within
`runBound` items, so it is the loop over that many; the statement InvocationsAreBounded says so. -/
def decodeRunForever (c : Config) (r0 : RxUnit) (n : Wait) (script : Nat → PollItem) : RunResult × Nat × RxUnit :=
  decodeRun c r0 n ((List.range (runBound c n)).map script)

end Sys2Proof.Machine
end

