-- ==== Sys2Proof/Machine/Wire.lean ====
section
/-! DEFINITION. The wire bytes (R70): the wire source offers a byte of one of the four classes.  What the byte does is
the arm of RX.BYTE that `rx_state` selects; while the RX unit is not busy the byte waits in the wire source.
The delivery and the consumption are one step (assumption 8, DESIGN CHOICE). -/

namespace Sys2Proof.Machine

/-- WIRE.START: opens a frame in `SEEKING` (R124), is data in `INFRAME` (R130). -/
def execWireStart (s : State) : Host.Outcome State Fault Refusal := deliverByte dali dali.start s

/-- WIRE.STOP: completes a frame in `INFRAME` (R128), is noise in `SEEKING` (R126). -/
def execWireStop (s : State) : Host.Outcome State Fault Refusal := deliverByte dali dali.stop s

/-- WIRE.ESC: the next wire byte is a literal (R72, R125, R129). -/
def execWireEsc (s : State) : Host.Outcome State Fault Refusal := deliverByte dali dali.esc s

/-- WIRE.LITERAL: stands for itself (R70). -/
def execWireLiteral (b : Byte) (s : State) : Host.Outcome State Fault Refusal := deliverByte dali b s

end Sys2Proof.Machine
end

