-- ==== Sys2Proof/Machine/Dispatch.lean ====
section
/-! DEFINITION. One arm per constructor of Instr. -/

namespace Sys2Proof.Machine

def exec (i : Instr) (s : State) : Host.Outcome State Fault Refusal :=
  match i with
  | .wireStart => Sys2Proof.Machine.execWireStart s
  | .wireStop => Sys2Proof.Machine.execWireStop s
  | .wireEsc => Sys2Proof.Machine.execWireEsc s
  | .wireLiteral b => Sys2Proof.Machine.execWireLiteral b s
  | .msgDaliCommand => Sys2Proof.Machine.execMsgDaliCommand s
  | .msgDaliRcv1Bytes => Sys2Proof.Machine.execMsgDaliRcv1Bytes s
  | .msgDaliRcv2Bytes => Sys2Proof.Machine.execMsgDaliRcv2Bytes s
  | .msgTimeframeExpired => Sys2Proof.Machine.execMsgTimeframeExpired s
  | .msgInvalidDaliFrame => Sys2Proof.Machine.execMsgInvalidDaliFrame s
  | .msgEcho => Sys2Proof.Machine.execMsgEcho s
  | .msgUnknown h => Sys2Proof.Machine.execMsgUnknown h s
  | .status v => Sys2Proof.Machine.execStatus v s
  | .txBegin x => Sys2Proof.Machine.execTxBegin x s
  | .txDataLiteral b => Sys2Proof.Machine.execTxDataLiteral b s
  | .txDataMarker b => Sys2Proof.Machine.execTxDataMarker b s
  | .txDrain => Sys2Proof.Machine.execTxDrain s
  | .txEnd x => Sys2Proof.Machine.execTxEnd x s
  | .txReserved x => Sys2Proof.Machine.execTxReserved x s
  | .rxStart n => Sys2Proof.Machine.execRxStart n s
  | .rxByteSeekingStart => Sys2Proof.Machine.execRxByteSeekingStart s
  | .rxByteSeekingEsc => Sys2Proof.Machine.execRxByteSeekingEsc s
  | .rxByteSeekingOther b => Sys2Proof.Machine.execRxByteSeekingOther b s
  | .rxByteEscSeek b => Sys2Proof.Machine.execRxByteEscSeek b s
  | .rxByteInframeStop => Sys2Proof.Machine.execRxByteInframeStop s
  | .rxByteInframeEsc => Sys2Proof.Machine.execRxByteInframeEsc s
  | .rxByteInframeOther b => Sys2Proof.Machine.execRxByteInframeOther b s
  | .rxByteEscFrame b => Sys2Proof.Machine.execRxByteEscFrame b s
  | .rxIdle => Sys2Proof.Machine.execRxIdle s
  | .rxNone => Sys2Proof.Machine.execRxNone s
  | .rxRead k => Sys2Proof.Machine.execRxRead k s

end Sys2Proof.Machine
end

