-- ==== Sys2Proof/Machine/Fetch.lean ====
section
/-! DEFINITION. Selecting the operation of a step: what the environment offers and the sequencers make the fetch word
(R82, R107, R122, R160; assumption 1).  The block fetches no instructions (R32); this stands where a fetch would. -/

namespace Sys2Proof.Machine

/-- What a step runs. -/
inductive Fetched where
  /-- the operation with this fetch word -/
  | word (w : FetchWord)
  /-- a TX cycle in which no TX step happens and `tx_err` = 0: nothing offered, or the wire sink not ready; `ready` is
  `tx_ready` (R107) -/
  | hold (ready : Bool)
  /-- a reset edge (R210) -/
  | rst
  /-- a flush of the wire source's queue (R212) -/
  | flush
  deriving DecidableEq, Repr

/-- One TX cycle (R107): with `wtx_ready` = 1, TX.DRAIN before any item in `TX_ESC2`, else the legal item offered; an
illegal item is judged whatever `wtx_ready` is. -/
def fetchTx (t : TxUnit) (i : TxIn) : Fetched :=
  match t.state with
  | .esc2 => if i.wtxReady then .word (txWord t.state.code i.kind i.data) else .hold (t.ready i)
  | .idle => if i.valid && (i.wtxReady || t.err i) then .word (txWord t.state.code i.kind i.data) else .hold (t.ready i)
  | .opened => if i.valid && (i.wtxReady || t.err i) then .word (txWord t.state.code i.kind i.data) else .hold (t.ready i)

/-- The event vector `{rx_start and not rx_busy, rx_busy and wrx_valid, rx_busy and poll_tick}` (R82). -/
def rxVector (busy start valid tick : Bool) : BitVec 3 :=
  (BitVec.ofBool (start && !busy) ++ BitVec.ofBool (busy && valid) ++ BitVec.ofBool (busy && tick) : BitVec 3)

/-- One RX cycle (R122): the wire source offers the head of its queue. -/
def fetchRx (r : RxUnit) (wireIn : List Byte) (start : Bool) (limit : Wait) (tick : Bool) : Fetched :=
  .word (rxWord r.state.code (rxVector r.busy start (!wireIn.isEmpty) tick)
    (if start && !r.busy then limit else wireIn.headD 0x00#8))

/-- What the environment does in this step.  When it does nothing, the RX unit still has its cycle with every host
input low: it consumes what the wire source offers while it is busy. -/
def State.offer (s : State) : Offer := s.script.headD (.rx false 0x00#8 false)

/-- The operation this step runs. -/
def fetch (s : State) : Fetched :=
  match s.offer with
  | .tx i => fetchTx s.tx i
  | .rx start limit tick => fetchRx s.rx s.wireIn start limit tick
  | .wire b => .word (.wire b)
  | .read i => .word (.readPort i)
  | .parse => .word (.header (guardedRead s.rx.frame 0))
  | .status v => .word (.status v)
  | .event w => .word w
  | .rst => .rst
  | .flush => .flush

/-- The state in which the next step runs the operation with this fetch word.  A message header stands where the parser
finds it, in `acc[0]`; every other word is presented as an event. -/
def stageWord (s : State) (w : FetchWord) : State :=
  match w with
  | .header h =>
    { s with
      rx := { s.rx with
        acc := Memory.write s.rx.acc 0 h
        accLen := if s.rx.accLen = 0#6 then 1#6 else s.rx.accLen }
      script := .parse :: s.script }
  | .wire b => { s with script := .event (.wire b) :: s.script }
  | .status v => { s with script := .event (.status v) :: s.script }
  | .txItem seq bits => { s with script := .event (.txItem seq bits) :: s.script }
  | .rxEvent seq bits => { s with script := .event (.rxEvent seq bits) :: s.script }
  | .readPort i => { s with script := .event (.readPort i) :: s.script }

/-- A word the decoder rejects: it stands for a number that is no word of the opcode table. -/
def noWord : FetchWord := .rxEvent 7#3 0#11

end Sys2Proof.Machine
end

