-- ==== Sys2Proof/Machine/Step.lean ====
section
/-! DEFINITION. One step: the environment's offer is taken off the script and the operation it selects is run. -/

namespace Sys2Proof.Machine

/-- One step of the machine. -/
def step (s : State) : Host.Outcome State Fault Refusal :=
  match fetch s with
  | .word w =>
    match decode w with
    | .ok i => exec i s.advance
    | .error r => .refused (.undecodable r)
  | .hold ready => .next (s.advance.txSample ready false)
  | .rst => .next s.advance.applyReset
  | .flush => .next s.advance.flushWire

/-- `s` with the instruction of the opcode table whose bits are `w` presented to the next step (assumption 7). -/
def State.withFetchWord (s : State) (nbits w : Nat) : State := stageWord s ((tableWord nbits w).getD noWord)

end Sys2Proof.Machine
end

