-- ==== Sys2Proof/Machine/Port.lean ====
section
/-! DEFINITION. The port level (R6, R34): every port of the block, its outputs as combinational functions of state and
inputs, and one clock cycle of both units (R107, R122, R172, R210).  It is written from the port-level rules alone, apart
from the meanings, and the statements compare the two. -/

namespace Sys2Proof.Machine

/-- The input ports of R34, and `rst` (R210). -/
structure Inputs where
  rst : Bool
  tx : TxIn
  rxStart : Bool
  rxWaitLimit : Wait
  wrxValid : Bool
  wrxData : Byte
  pollTick : Bool
  rxRdIdx : Cnt
  deriving DecidableEq, Repr

/-- The output ports of R34. -/
structure Outputs where
  txReady : Bool
  txErr : Bool
  txBusy : Bool
  wtxValid : Bool
  wtxData : Byte
  wrxReady : Bool
  rxStateO : BitVec 3
  rxBusy : Bool
  rxDone : Bool
  rxOk : Bool
  rxCauseO : BitVec 2
  rxLen : Cnt
  rxBytes : Cnt
  rxWaits : Wait
  rxRdData : Byte
  msgKind : BitVec 3
  msgHeader : Byte
  msgStatus : Byte
  msgD0 : Byte
  msgD1 : Byte
  msgLenErr : Bool
  deriving DecidableEq, Repr

/-- `wtx_valid` (R107). -/
def wtxValid (t : TxUnit) (i : TxIn) : Bool := t.state == .esc2 || (i.valid && t.legal i.kind)

/-- `wtx_data` (R107). -/
def wtxData (c : Config) (t : TxUnit) (i : TxIn) : Byte :=
  if t.state = .esc2 then t.hold
  else if i.kind = 0b01#2 then c.start
  else if i.kind = 0b10#2 then c.stop
  else if i.kind = 0b00#2 then (if isMarker c i.data then c.esc else i.data)
  else 0x00#8

/-- `fire` (R107): a TX step happens in this cycle. -/
def txFire (t : TxUnit) (i : TxIn) : Bool := wtxValid t i && i.wtxReady

/-- The TX registers after a cycle in which `fire` holds (R101 to R105). -/
def txNext (c : Config) (t : TxUnit) (i : TxIn) : TxUnit :=
  match t.state with
  | .esc2 => { t with state := .opened }
  | .idle => { t with state := .opened }
  | .opened =>
    if i.kind = 0b10#2 then { t with state := .idle }
    else if isMarker c i.data then { state := .esc2, hold := i.data }
    else t

/-- The TX registers after any cycle (R107). -/
def txCycle (c : Config) (t : TxUnit) (i : TxIn) : TxUnit := if txFire t i then txNext c t i else t

/-- The RX event of a cycle (R122); none is RX.NONE. -/
def rxSelect (r : RxUnit) (i : Inputs) : Option RxEvent :=
  if i.rxStart && !r.busy then some (.start i.rxWaitLimit)
  else if r.busy && i.wrxValid then some (.byte i.wrxData)
  else if r.busy && i.pollTick then some .idle
  else none

/-- The RX registers after any cycle (R122). -/
def rxCycle (c : Config) (r : RxUnit) (i : Inputs) : RxUnit :=
  match rxSelect r i with
  | some e => rxStep c r e
  | none => r

/-- Every output port in one cycle (R33, R34, R83, R107, R122, R136, R172). -/
def outputs (c : Config) (t : TxUnit) (r : RxUnit) (i : Inputs) : Outputs :=
  let m := parse c r.frame
  { txReady := t.ready i.tx
    txErr := t.err i.tx
    txBusy := t.busy
    wtxValid := wtxValid t i.tx
    wtxData := wtxData c t i.tx
    wrxReady := r.busy
    rxStateO := r.state.code
    rxBusy := r.busy
    rxDone := r.done
    rxOk := r.ok
    rxCauseO := r.cause.code
    rxLen := r.accLen
    rxBytes := r.byteCnt
    rxWaits := r.waitCnt
    rxRdData := r.readAcc i.rxRdIdx.toNat
    msgKind := m.kind.code
    msgHeader := m.header
    msgStatus := m.status
    msgD0 := m.d0
    msgD1 := m.d1
    msgLenErr := m.lenErr }

/-- One rising edge of `clk`: reset beats everything (R194, R210), and the two units step in the same cycle (R59). -/
def clockEdge (c : Config) (t : TxUnit) (r : RxUnit) (i : Inputs) : TxUnit × RxUnit :=
  if i.rst then (TxUnit.reset, r.resetFrom) else (txCycle c t i.tx, rxCycle c r i)

/-- An item the host offers (R82). -/
inductive TxItem where
  | data (b : Byte)
  | beginFrame
  | endFrame
  | reserved
  deriving DecidableEq, Repr

/-- The item on the TX port (R82). -/
def TxIn.item (i : TxIn) : TxItem :=
  if i.kind = 0b00#2 then .data i.data
  else if i.kind = 0b01#2 then .beginFrame
  else if i.kind = 0b10#2 then .endFrame
  else .reserved

/-- The wire byte of a cycle, if a TX step happens in it. -/
def txEmits (c : Config) (t : TxUnit) (i : TxIn) : List Byte := if txFire t i then [wtxData c t i] else []

/-- The item accepted in a cycle, if one is: `tx_valid and tx_ready` (R107). -/
def txAccepts (t : TxUnit) (i : TxIn) : List TxItem := if i.valid && t.ready i then [i.item] else []

/-- The bytes that a run of TX cycles emits, in order (R56 a). -/
def txEmitted (c : Config) (t : TxUnit) : List TxIn → List Byte
  | [] => []
  | i :: rest => txEmits c t i ++ txEmitted c (txCycle c t i) rest

/-- The items that a run of TX cycles accepts, in order. -/
def txAccepted (c : Config) (t : TxUnit) : List TxIn → List TxItem
  | [] => []
  | i :: rest => txAccepts t i ++ txAccepted c (txCycle c t i) rest

/-- The TX registers after a run of TX cycles. -/
def txAfter (c : Config) (t : TxUnit) (run : List TxIn) : TxUnit := run.foldl (txCycle c) t

end Sys2Proof.Machine
end

