-- ==== Sys2Proof/Machine/Trace.lean ====
section
/-! DEFINITION. The trace notation (R84, R85): a run written as events, and what the environment does to play it. -/

namespace Sys2Proof.Machine

/-- An event of a trace (R84). -/
inductive TraceEvent where
  /-- `BEGIN` -/
  | beginFrame
  /-- `DATA bb` -/
  | data (b : Byte)
  /-- `END` -/
  | endFrame
  /-- `START n` -/
  | start (n : Wait)
  /-- `BYTE bb` -/
  | byte (b : Byte)
  /-- `IDLE` -/
  | idle
  deriving DecidableEq, Repr

/-- `FRAME b0 ... bk` (R85). -/
def traceFrame (p : List Byte) : List TraceEvent := .beginFrame :: (p.map .data ++ [.endFrame])

/-- `BYTES b0 ... bk` (R85). -/
def traceBytes (bs : List Byte) : List TraceEvent := bs.map .byte

/-- `SILENCE n` (R85). -/
def traceSilence (n : Nat) : List TraceEvent := List.replicate n .idle

/-- `WIRE(FRAME ...)` (R85). -/
def traceWire (c : Config) (p : List Byte) : List TraceEvent := traceBytes (stuff c p)

/-- `ECHO b` (R85). -/
def traceEcho (c : Config) (b : Byte) : List TraceEvent := traceFrame (buildEcho c b)

/-- `COMMAND a o p d` (R85). -/
def traceCommand (c : Config) (a o p d : Byte) : List TraceEvent := traceFrame (buildCommand c a o p d false)

/-- `CONFIG a o p d` (R85). -/
def traceConfig (c : Config) (a o p d : Byte) : List TraceEvent := traceFrame (buildCommand c a o p d true)

/-- An item offered with the wire sink ready. -/
def offerItem (kind : BitVec 2) (b : Byte) : Offer := .tx ⟨true, kind, b, true⟩

/-- What the environment does for one event of a trace.  A marker takes two TX cycles: the next item of the trace waits
while the escaped byte is drained (R104; assumption 17, DESIGN CHOICE). -/
def TraceEvent.offers (c : Config) : TraceEvent → List Offer
  | .beginFrame => [offerItem 0b01#2 0x00#8]
  | .data b => if isMarker c b then [offerItem 0b00#2 b, .tx ⟨false, 0b00#2, 0x00#8, true⟩] else [offerItem 0b00#2 b]
  | .endFrame => [offerItem 0b10#2 0x00#8]
  | .start n => [.rx true n false]
  | .byte b => [.wire b]
  | .idle => [.rx false 0x00#8 true]

/-- The script that plays a trace. -/
def traceScript (c : Config) (trace : List TraceEvent) : List Offer := trace.flatMap (TraceEvent.offers c)

/-- The wire bytes an event of a trace carries (R84). -/
def TraceEvent.wireBytes (c : Config) : TraceEvent → List Byte
  | .beginFrame => [c.start]
  | .data b => stuffByte c b
  | .endFrame => [c.stop]
  | .start _ => []
  | .byte b => [b]
  | .idle => []

/-- A trace "encodes" to the wire bytes it carries (R84). -/
def traceEncoding (c : Config) (trace : List TraceEvent) : List Byte := trace.flatMap (TraceEvent.wireBytes c)

end Sys2Proof.Machine
end

