-- ==== Sys2Proof/Safety.lean ====
section
/-! DEFINITION. What counts as a lawful state: the invariants of R38, and what counts as a quiet environment. -/

namespace Sys2Proof

open Sys2Proof.Machine

/-- R38 of the RX registers, item by item.  Item 1 holds by the types of the fields. -/
structure RxLawful (c : Config) (r : RxUnit) : Prop where
  /-- item 2 -/
  bytesCapped : r.byteCnt.toNat ≤ c.byteCap
  /-- item 2 -/
  busyBelowCap : r.busy = true → r.byteCnt.toNat < c.byteCap
  /-- item 3 -/
  openFrame : r.state = .inframe ∨ r.state = .escFrame → r.accLen.toNat + 1 ≤ r.byteCnt.toNat
  /-- item 3 -/
  completeFrame : r.state = .complete → r.accLen.toNat + 2 ≤ r.byteCnt.toNat
  /-- item 3 -/
  lenCapped : r.accLen.toNat ≤ accCap c
  /-- item 4 -/
  seekingEmpty : r.state = .seeking ∨ r.state = .escSeek → r.accLen = 0#6
  /-- item 5 -/
  causeIffExhausted : r.cause ≠ .none ↔ r.state = .exhausted
  /-- item 6 -/
  byteCapCause : r.cause = .byteCap → r.byteCnt.toNat = c.byteCap
  /-- item 6 -/
  waitLimitCause : r.cause = .waitLimit → r.waitLim.toNat ≤ r.waitCnt.toNat ∧ 1 ≤ r.waitCnt.toNat
  /-- item 7 -/
  busyBelowLimit : r.busy = true → r.waitCnt.toNat < r.waitLim.toNat ∨ r.waitCnt = 0#8
  /-- item 7 -/
  waitBounded : r.waitCnt.toNat ≤ max r.waitLim.toNat 1
  /-- item 8 -/
  idleClear : r.state = .idle → r.accLen = 0#6 ∧ r.byteCnt = 0#6 ∧ r.waitCnt = 0#8 ∧ r.cause = .none
  /-- the accumulator's canonical form -/
  accCanonical : Memory.wf r.acc = true
  /-- item 3: `Append` never writes outside `acc` -/
  accWithin : Memory.within (accCap c) r.acc = true

/-- A lawful state: every state reachable from reset is one (R38). -/
def Lawful (s : State) : Prop := RxLawful dali s.rx

/-- What the transport delivers to the wire source for an RX.BYTE row of the state `S` with the byte `b`: the byte, if the
row is the one selected and nothing is queued (assumption 18). -/
def Machine.State.deliveredFor (s : State) (S : RxState) (b : Byte) (wf : Bool) : List Byte :=
  if s.rx.state = S ∧ s.wireIn = [] ∧ wf = true then [b] else []

/-- What the transport delivers to the wire source while the operation runs (R36): the byte of a WIRE row (assumption
8), and the byte of an RX.BYTE row that finds nothing queued (assumption 18). -/
def Instr.delivers (i : Instr) (s : State) : List Byte :=
  match i with
  | .wireStart => [dali.start]
  | .wireStop => [dali.stop]
  | .wireEsc => [dali.esc]
  | .wireLiteral b => [b]
  | .rxByteSeekingStart => s.deliveredFor .seeking dali.start true
  | .rxByteSeekingEsc => s.deliveredFor .seeking dali.esc true
  | .rxByteSeekingOther b => s.deliveredFor .seeking b (Instr.rxByteSeekingOther b).wf
  | .rxByteEscSeek b => s.deliveredFor .escSeek b true
  | .rxByteInframeStop => s.deliveredFor .inframe dali.stop true
  | .rxByteInframeEsc => s.deliveredFor .inframe dali.esc true
  | .rxByteInframeOther b => s.deliveredFor .inframe b (Instr.rxByteInframeOther b).wf
  | .rxByteEscFrame b => s.deliveredFor .escFrame b true
  | .msgDaliCommand => []
  | .msgDaliRcv1Bytes => []
  | .msgDaliRcv2Bytes => []
  | .msgTimeframeExpired => []
  | .msgInvalidDaliFrame => []
  | .msgEcho => []
  | .msgUnknown _ => []
  | .status _ => []
  | .txBegin _ => []
  | .txDataLiteral _ => []
  | .txDataMarker _ => []
  | .txDrain => []
  | .txEnd _ => []
  | .txReserved _ => []
  | .rxStart _ => []
  | .rxIdle => []
  | .rxNone => []
  | .rxRead _ => []

/-- What the transport delivers in this step: what the operation it runs has delivered. -/
def Machine.State.delivered (s : State) : List Byte :=
  match fetch s with
  | .word w =>
    match decode w with
    | .ok i => i.delivers s
    | .error _ => []
  | .hold _ => []
  | .rst => []
  | .flush => []

/-- The environment does not name an event by a word that is no instruction in this step. -/
def OffersDecode (s : State) : Prop := ∀ w, s.offer = .event w → ∃ i, decode w = .ok i

/-- Noise that `SEEKING` discards without opening a frame and that leaves no escape pending, read left to right;
`pending` says that the byte before is an active escape (R140 item 2). -/
def quietNoise (c : Config) : Bool → List Byte → Bool
  | pending, [] => !pending
  | true, _ :: rest => quietNoise c false rest
  | false, b :: rest => !(b == c.start) && quietNoise c (b == c.esc) rest

/-- Reading left to right and pairing every `ESC` with the byte after it, no marker stands outside a pair (R109 c). -/
def wellPaired (c : Config) : List Byte → Bool
  | [] => true
  | b :: rest =>
    if b = c.esc then
      match rest with
      | [] => false
      | _ :: rest' => wellPaired c rest'
    else !isMarker c b && wellPaired c rest

/-- The bytes of a poll script, in order (R140). -/
def scriptBytes (script : List PollItem) : List Byte :=
  script.flatMap fun item => match item with
    | .byte b => [b]
    | .idle => []

/-- How many idle polls a poll script has (R140). -/
def scriptIdles (script : List PollItem) : Nat := script.count .idle

/-- What the environment does for an item of a poll script. -/
def pollOffer : PollItem → Offer
  | .byte b => .wire b
  | .idle => .rx false 0x00#8 true

end Sys2Proof
end

