-- ==== Sys2Proof/Certificates/Slice0/Obligations.lean ====
section
/-! DEFINITION. The statements of the model, from the numbered rules of the spec.  Numbers are written out as the spec
gives them, not through the configuration, except where a statement holds for every configuration. -/

open Sys2Proof Sys2Proof.Machine

/-! ### Reset -/

/-- R37: the registers after reset, and the outputs that follow for every input. -/
def Obligations.ResetLeavesTheSpecValues : Prop :=
  State.reset.tx = ⟨.idle, 0x00#8⟩ ∧ State.reset.rx.state = .idle ∧ State.reset.rx.accLen = 0#6 ∧
  State.reset.rx.byteCnt = 0#6 ∧ State.reset.rx.waitCnt = 0#8 ∧ State.reset.rx.waitLim = 0#8 ∧
  State.reset.rx.cause = .none ∧
  ∀ i : Inputs,
    let o := outputs dali State.reset.tx State.reset.rx i
    o.rxBusy = false ∧ o.rxDone = false ∧ o.rxOk = false ∧ o.wrxReady = false ∧ o.txBusy = false ∧
    o.wtxValid = (i.tx.valid && i.tx.kind == 0b01#2) ∧ o.rxLen = 0#6 ∧ o.msgKind = 0#3 ∧ o.msgLenErr = true

/-- R210: at an edge with `rst` = 1 the registers take the reset values whatever the other inputs are, and no byte is
consumed.  That the byte streams are untouched is R211.  Nothing is said of the cells of `acc`. -/
def Obligations.ResetEdgeBeatsEverything : Prop :=
  (∀ (t : TxUnit) (r : RxUnit) (i : Inputs), i.rst = true →
    let after := clockEdge dali t r i
    after.1 = ⟨.idle, 0x00#8⟩ ∧ after.2.state = .idle ∧ after.2.accLen = 0#6 ∧ after.2.byteCnt = 0#6 ∧
    after.2.waitCnt = 0#8 ∧ after.2.waitLim = 0#8 ∧ after.2.cause = .none) ∧
  (∀ (s : State) (rest : List Offer), s.script = .rst :: rest →
    ∃ t, step s = .next t ∧ t.tx = ⟨.idle, 0x00#8⟩ ∧ t.rx.state = .idle ∧ t.rx.accLen = 0#6 ∧ t.rx.byteCnt = 0#6 ∧
      t.rx.waitCnt = 0#8 ∧ t.rx.waitLim = 0#8 ∧ t.rx.cause = .none ∧ t.wireIn = s.wireIn ∧ t.wireOut = s.wireOut ∧
      t.script = rest)

/-! ### Decoding -/

/-- A step takes the offer off the script and runs the operation whose fetch word was selected. -/
def Obligations.StepRunsTheDecodedInstruction : Prop :=
  ∀ (s : State) (w : FetchWord) (i : Instr), fetch s = .word w → decode w = .ok i →
    step s = exec i { s with script := s.script.tail }

/-- The words of the opcode table that have fixed bits, and one TX item of each kind, decode to their rows. -/
def Obligations.OpcodeTableWordsDecode : Prop :=
  decodeTableWord 8 0b01111100 = some .wireStart ∧
  decodeTableWord 8 0b01111101 = some .wireStop ∧
  decodeTableWord 8 0b01111110 = some .wireEsc ∧
  decodeTableWord 8 0x01 = some .msgDaliCommand ∧
  decodeTableWord 8 0x02 = some .msgDaliRcv1Bytes ∧
  decodeTableWord 8 0x03 = some .msgDaliRcv2Bytes ∧
  decodeTableWord 8 0x0A = some .msgTimeframeExpired ∧
  decodeTableWord 8 0x0B = some .msgInvalidDaliFrame ∧
  decodeTableWord 8 0x1E = some .msgEcho ∧
  decodeTableWord 16 0b0100000000 = some (.txBegin 0x00#8) ∧
  decodeTableWord 16 0b0000111100 = some (.txDataLiteral 0x3C#8) ∧
  decodeTableWord 16 0b0001111101 = some (.txDataMarker 0x7D#8) ∧
  decodeTableWord 16 0b1000000000 = some (.txEnd 0x00#8) ∧
  decodeTableWord 16 0b1100000000 = some (.txReserved 0x00#8)

/-- R70: a wire byte is of exactly one class, by its full value, and none is illegal.  The clause on the decoder says
that the class is the row. -/
def Obligations.WireByteHasOneClass : Prop :=
  ∀ b : Byte,
    (b = 0x7C#8 → decode (.wire b) = .ok .wireStart) ∧
    (b = 0x7D#8 → decode (.wire b) = .ok .wireStop) ∧
    (b = 0x7E#8 → decode (.wire b) = .ok .wireEsc) ∧
    (b ≠ 0x7C#8 → b ≠ 0x7D#8 → b ≠ 0x7E#8 → decode (.wire b) = .ok (.wireLiteral b))

/-- Every operand at every value its row admits survives the encoding. -/
def Obligations.DecodeOfEncodeIsTheInstruction : Prop := ∀ i : Instr, i.wf = true → decode (encode i) = .ok i

/-- The decoder answers no ill-formed instruction, whatever the word. -/
def Obligations.DecodedInstructionsAreWellFormed : Prop :=
  ∀ (w : FetchWord) (i : Instr), decode w = .ok i → i.wf = true

/-- R75: the table of header values is a bijection between the six names and the six values, and every other value
selects UNKNOWN; for every configuration whose six header values are distinct. -/
def Obligations.HeaderTableIsABijection : Prop :=
  (∀ c : Config, c.HeadersDistinct → ∀ (h : Byte) (k : MsgKind), k ≠ .unknown →
    (kindOfHeader c h = k ↔ headerOfKind c k = some h)) ∧
  headerOfKind dali .daliCommand = some 0x01#8 ∧ headerOfKind dali .daliRcv1Bytes = some 0x02#8 ∧
  headerOfKind dali .daliRcv2Bytes = some 0x03#8 ∧ headerOfKind dali .timeframeExpired = some 0x0A#8 ∧
  headerOfKind dali .invalidDaliFrame = some 0x0B#8 ∧ headerOfKind dali .echo = some 0x1E#8

/-! ### The stuffer -/

/-- R101, R106.  That an item which is not accepted is a step that completes, where the spec has no step, is the model's
choice (assumption 1). -/
def Obligations.TxBeginOpensAFrame : Prop :=
  ∀ (x : Byte) (s : State),
    (decode (txWord 0#2 0b01#2 x) = .ok (.txBegin x) ∧ decode (txWord 1#2 0b01#2 x) = .ok (.txBegin x)) ∧
    (s.tx.state = .idle → exec (.txBegin x) s = .next { s with
      tx := { state := .opened, hold := s.tx.hold }
      wireOut := s.wireOut ++ [0x7C#8]
      host := { s.host with txReady := true, txErr := false } }) ∧
    (s.tx.state = .opened →
      exec (.txBegin x) s = .next { s with host := { s.host with txReady := false, txErr := true } }) ∧
    (s.tx.state = .esc2 →
      exec (.txBegin x) s = .next { s with host := { s.host with txReady := false, txErr := false } })

/-- R102, R106.  That an item which is not accepted is a step that completes, where the spec has no step, is the model's
choice (assumption 1). -/
def Obligations.TxDataLiteralEmitsTheByte : Prop :=
  ∀ (b : Byte) (s : State), b ≠ 0x7C#8 → b ≠ 0x7D#8 → b ≠ 0x7E#8 →
    decode (txWord 1#2 0b00#2 b) = .ok (.txDataLiteral b) ∧
    (s.tx.state = .opened → exec (.txDataLiteral b) s = .next { s with
      wireOut := s.wireOut ++ [b]
      host := { s.host with txReady := true, txErr := false } }) ∧
    (s.tx.state = .idle →
      exec (.txDataLiteral b) s = .next { s with host := { s.host with txReady := false, txErr := true } }) ∧
    (s.tx.state = .esc2 →
      exec (.txDataLiteral b) s = .next { s with host := { s.host with txReady := false, txErr := false } })

/-- R103, R106.  That an item which is not accepted is a step that completes, where the spec has no step, is the model's
choice (assumption 1). -/
def Obligations.TxDataMarkerEmitsTheEscape : Prop :=
  ∀ (b : Byte) (s : State), b = 0x7C#8 ∨ b = 0x7D#8 ∨ b = 0x7E#8 →
    decode (txWord 1#2 0b00#2 b) = .ok (.txDataMarker b) ∧
    (s.tx.state = .opened → exec (.txDataMarker b) s = .next { s with
      tx := { state := .esc2, hold := b }
      wireOut := s.wireOut ++ [0x7E#8]
      host := { s.host with txReady := true, txErr := false } }) ∧
    (s.tx.state = .idle →
      exec (.txDataMarker b) s = .next { s with host := { s.host with txReady := false, txErr := true } }) ∧
    (s.tx.state = .esc2 →
      exec (.txDataMarker b) s = .next { s with host := { s.host with txReady := false, txErr := false } })

/-- R104: in `TX_ESC2` whatever the host offers waits; with `wtx_ready` = 1 the byte owed is emitted, and without it the
unit holds.  TX.DRAIN is the only step possible. -/
def Obligations.TxDrainEmitsTheByteOwed : Prop :=
  ∀ s : State, s.tx.state = .esc2 →
    exec .txDrain s = .next { s with
      tx := { state := .opened, hold := s.tx.hold }
      wireOut := s.wireOut ++ [s.tx.hold]
      host := { s.host with txReady := false, txErr := false } } ∧
    ∀ (i : TxIn) (rest : List Offer), s.script = .tx i :: rest →
      step s = if i.wtxReady then exec .txDrain { s with script := rest }
        else .next { s with script := rest, host := { s.host with txReady := false, txErr := false } }

/-- R105, R106.  That an item which is not accepted is a step that completes, where the spec has no step, is the model's
choice (assumption 1). -/
def Obligations.TxEndClosesTheFrame : Prop :=
  ∀ (x : Byte) (s : State),
    decode (txWord 1#2 0b10#2 x) = .ok (.txEnd x) ∧
    (s.tx.state = .opened → exec (.txEnd x) s = .next { s with
      tx := { state := .idle, hold := s.tx.hold }
      wireOut := s.wireOut ++ [0x7D#8]
      host := { s.host with txReady := true, txErr := false } }) ∧
    (s.tx.state = .idle →
      exec (.txEnd x) s = .next { s with host := { s.host with txReady := false, txErr := true } }) ∧
    (s.tx.state = .esc2 →
      exec (.txEnd x) s = .next { s with host := { s.host with txReady := false, txErr := false } })

/-- R106: an illegal item is never accepted for as long as it is offered, whatever `wtx_ready` is; `tx_err` = 1 in every
such cycle; in `TX_ESC2` no item is judged.  TX.RESERVED is illegal in both states that judge. -/
def Obligations.IllegalItemsAreNeverAccepted : Prop :=
  (∀ (k : Nat) (s : State) (i : TxIn) (rest : List Offer), i.valid = true →
    (s.tx.state = .idle ∧ i.kind ≠ 0b01#2) ∨ (s.tx.state = .opened ∧ (i.kind = 0b01#2 ∨ i.kind = 0b11#2)) →
    s.script = List.replicate (k + 1) (.tx i) ++ rest →
    runSteps (k + 1) s =
      .next { s with script := rest, host := { s.host with txReady := false, txErr := true } }) ∧
  (∀ (x : Byte) (s : State),
    (s.tx.state ≠ .esc2 → exec (.txReserved x) s =
      .next { s with host := { s.host with txReady := false, txErr := true } }) ∧
    (s.tx.state = .esc2 → exec (.txReserved x) s =
      .next { s with host := { s.host with txReady := false, txErr := false } })) ∧
  (∀ (t : TxUnit) (r : RxUnit) (i : Inputs), t.state = .esc2 → (outputs dali t r i).txErr = false)

/-- R107: a step on a TX cycle is that cycle at the port level: the byte of `wtx_data` is emitted exactly when `fire`
holds, the registers are those of the port binding, and the host sees `tx_ready` and `tx_err`. -/
def Obligations.TxStepIsThePortCycle : Prop :=
  ∀ (s : State) (i : TxIn) (rest : List Offer), s.script = .tx i :: rest →
    step s = .next { s with
      tx := txCycle dali s.tx i
      wireOut := s.wireOut ++ (if wtxValid s.tx i && i.wtxReady then [wtxData dali s.tx i] else [])
      host := { s.host with txReady := s.tx.ready i, txErr := s.tx.err i }
      script := rest }

/-- A run of TX cycles of the machine is the run of the port binding, bytes and registers. -/
def Obligations.TxRunIsThePortRun : Prop :=
  ∀ (run : List TxIn) (s : State) (rest : List Offer), s.script = run.map .tx ++ rest →
    ∃ t, runSteps run.length s = .next t ∧ t.tx = txAfter dali s.tx run ∧
      t.wireOut = s.wireOut ++ txEmitted dali s.tx run ∧ t.rx = s.rx ∧ t.wireIn = s.wireIn ∧ t.script = rest

/-- R108, for every configuration and every timing of `tx_valid` and `wtx_ready`: from `TX_IDLE`, if the accepted items
are BEGIN, the payload's bytes and END, then the bytes emitted are exactly `Encode` of the payload and the unit ends in
`TX_IDLE`. -/
def Obligations.StufferStreamIsEncode : Prop :=
  ∀ (c : Config) (t : TxUnit) (run : List TxIn) (p : List Byte), t.state = .idle →
    txAccepted c t run = .beginFrame :: (p.map .data ++ [.endFrame]) →
    txEmitted c t run = stuff c p ∧ (txAfter c t run).state = .idle

/-- R109 (a), (b), (c), for every configuration: length, ends, and no marker outside a pair between them. -/
def Obligations.EncodedFrameShape : Prop :=
  ∀ (c : Config) (p : List Byte),
    (stuff c p).length = 2 + p.length + p.countP (isMarker c) ∧
    p.length + 2 ≤ (stuff c p).length ∧ (stuff c p).length ≤ 2 * p.length + 2 ∧
    ∃ body, stuff c p = c.start :: (body ++ [c.stop]) ∧ wellPaired c body = true

/-- R109 (d), for every configuration. -/
def Obligations.EncodeIsInjective : Prop :=
  ∀ (c : Config) (p q : List Byte), stuff c p = stuff c q → p = q

/-- R221: the frames the source's host sends are at most 18 stuffed bytes. -/
def Obligations.CommandFramesAreShort : Prop :=
  ∀ (a o p d : Byte) (isConfig : Bool), (stuff dali (buildCommand dali a o p d isConfig)).length ≤ 18

/-! ### The unstuffer -/

/-- R121: a start begins a fresh invocation when not busy, is ignored entirely while busy, and a limit of 0 behaves as 1:
the first idle poll gives up. -/
def Obligations.RxStartBeginsAnInvocation : Prop :=
  ∀ (n : Wait) (s : State),
    decode (rxWord s.rx.state.code 0b100#3 n) = .ok (.rxStart n) ∧
    (s.rx.busy = true → exec (.rxStart n) s = .next s) ∧
    (s.rx.busy = false → exec (.rxStart n) s = .next { s with rx := { s.rx with
        state := .seeking, accLen := 0#6, byteCnt := 0#6, waitCnt := 0#8, waitLim := n, cause := .none } }) ∧
    (s.rx.busy = false → n.toNat ≤ 1 → ∃ t u, exec (.rxStart n) s = .next t ∧ exec .rxIdle t = .next u ∧
      u.rx.state = .exhausted ∧ u.rx.cause = .waitLimit)

/-- R124, R125, R126: the three arms of `SEEKING`, each followed by the count and the byte-cap check, on a byte that the
wire source offers as the oldest of its queue.  Here and below the wait counter is cleared only where the OPEN parameter
says so (R123); the statements do not rest on its value in the instance. -/
def Obligations.RxByteWhileSeeking : Prop :=
  ∀ (s : State) (rest : List Byte), s.rx.state = .seeking →
    let counted := s.rx.byteCnt + 1#6
    let capped := counted.toNat = 40
    (s.wireIn = 0x7C#8 :: rest → exec .rxByteSeekingStart s = .next { s with
      wireIn := rest
      rx := { s.rx with
        state := if capped then .exhausted else .inframe
        accLen := 0#6
        byteCnt := counted
        waitCnt := if dali.waitReloadOnByte then 0#8 else s.rx.waitCnt
        cause := if capped then .byteCap else s.rx.cause } }) ∧
    (s.wireIn = 0x7E#8 :: rest → exec .rxByteSeekingEsc s = .next { s with
      wireIn := rest
      rx := { s.rx with
        state := if capped then .exhausted else .escSeek
        byteCnt := counted
        waitCnt := if dali.waitReloadOnByte then 0#8 else s.rx.waitCnt
        cause := if capped then .byteCap else s.rx.cause } }) ∧
    (∀ b : Byte, b ≠ 0x7C#8 → b ≠ 0x7E#8 → s.wireIn = b :: rest → exec (.rxByteSeekingOther b) s = .next { s with
      wireIn := rest
      rx := { s.rx with
        state := if capped then .exhausted else .seeking
        byteCnt := counted
        waitCnt := if dali.waitReloadOnByte then 0#8 else s.rx.waitCnt
        cause := if capped then .byteCap else s.rx.cause } })

/-- R127: after an escape marker in the noise any byte is discarded. -/
def Obligations.RxByteAfterNoiseEscapeIsDiscarded : Prop :=
  ∀ (b : Byte) (s : State) (rest : List Byte), s.rx.state = .escSeek → s.wireIn = b :: rest →
    exec (.rxByteEscSeek b) s = .next { s with
      wireIn := rest
      rx := { s.rx with
        state := if (s.rx.byteCnt + 1#6).toNat = 40 then .exhausted else .seeking
        byteCnt := s.rx.byteCnt + 1#6
        waitCnt := if dali.waitReloadOnByte then 0#8 else s.rx.waitCnt
        cause := if (s.rx.byteCnt + 1#6).toNat = 40 then .byteCap else s.rx.cause } }

/-- R128: the stop marker completes the frame, even as the last byte the cap allows. -/
def Obligations.RxStopCompletesTheFrame : Prop :=
  ∀ (s : State) (rest : List Byte), s.rx.state = .inframe → s.wireIn = 0x7D#8 :: rest →
    exec .rxByteInframeStop s = .next { s with
      wireIn := rest
      rx := { s.rx with
        state := .complete
        byteCnt := s.rx.byteCnt + 1#6
        waitCnt := if dali.waitReloadOnByte then 0#8 else s.rx.waitCnt } }

/-- R129: the escape marker inside a frame is not appended. -/
def Obligations.RxEscapeInsideAFrame : Prop :=
  ∀ (s : State) (rest : List Byte), s.rx.state = .inframe → s.wireIn = 0x7E#8 :: rest →
    exec .rxByteInframeEsc s = .next { s with
      wireIn := rest
      rx := { s.rx with
        state := if (s.rx.byteCnt + 1#6).toNat = 40 then .exhausted else .escFrame
        byteCnt := s.rx.byteCnt + 1#6
        waitCnt := if dali.waitReloadOnByte then 0#8 else s.rx.waitCnt
        cause := if (s.rx.byteCnt + 1#6).toNat = 40 then .byteCap else s.rx.cause } }

/-- R130, R131: the two arms that append, in every state whose `acc_len` is an index of the accumulator; the cell
`acc_len` holds the byte and every other cell reads as before.  Where `acc_len` is no index (no run gets there, R38 item
3) the model faults; the first clause of each arm says so, which is the model's choice (assumption 4). -/
def Obligations.RxByteIsAppended : Prop :=
  ∀ (b : Byte) (s : State) (rest : List Byte), s.wireIn = b :: rest →
    let counted := s.rx.byteCnt + 1#6
    let stored := { s with
      wireIn := rest
      rx := { s.rx with
        acc := Memory.write s.rx.acc s.rx.accLen.toNat b
        accLen := s.rx.accLen + 1#6
        state := if counted.toNat = 40 then .exhausted else .inframe
        byteCnt := counted
        waitCnt := if dali.waitReloadOnByte then 0#8 else s.rx.waitCnt
        cause := if counted.toNat = 40 then .byteCap else s.rx.cause } }
    (s.rx.state = .inframe → b ≠ 0x7D#8 → b ≠ 0x7E#8 →
      exec (.rxByteInframeOther b) s = if s.rx.accLen.toNat < 39 then .next stored else .fault .accOverflow) ∧
    (s.rx.state = .escFrame →
      exec (.rxByteEscFrame b) s = if s.rx.accLen.toNat < 39 then .next stored else .fault .accOverflow) ∧
    (Memory.wf s.rx.acc = true → Memory.read stored.rx.acc s.rx.accLen.toNat = b) ∧
    (∀ a, a ≠ s.rx.accLen.toNat → Memory.read stored.rx.acc a = Memory.read s.rx.acc a)

/-- R123, R132, for every configuration: an RX.BYTE step counts the byte, reloads the wait counter only if the OPEN
parameter says so, runs the arm and then checks the cap, which completion beats. -/
def Obligations.RxByteCountsThenChecksTheCap : Prop :=
  ∀ (c : Config) (r : RxUnit) (b : Byte), r.busy = true →
    let s1 := { r with byteCnt := r.byteCnt + 1#6, waitCnt := if c.waitReloadOnByte then 0#8 else r.waitCnt }
    let s2 := byteArm c r.state b s1
    rxStep c r (.byte b) =
      if s2.state ≠ .complete ∧ s2.byteCnt.toNat = c.byteCap then { s2 with state := .exhausted, cause := .byteCap }
      else s2

/-- R137, R138: in every busy state, for every byte, the row that the state and the byte's class select decodes, and
executing it is the reference step where the wire source offers the byte.  The premise on the queue takes in the empty
queue, where the byte is delivered in the same cycle; with another byte queued before it, nothing happens: both are the
model's choice (assumption 18). -/
def Obligations.RxByteRowsAreTheReferenceStep : Prop :=
  ∀ (b : Byte) (s : State), s.rx.busy = true → s.rx.accLen.toNat < 39 →
    ∃ i, decode (rxWord s.rx.state.code 0b010#3 b) = .ok i ∧
      exec i s = if s.wireIn.headD b = b
        then .next { s with rx := rxStep dali s.rx (.byte b), wireIn := s.wireIn.tail } else .next s

/-- R133: an idle poll while busy; the comparison is on natural numbers. -/
def Obligations.RxIdleCountsAndGivesUpAtTheLimit : Prop :=
  ∀ s : State,
    decode (rxWord s.rx.state.code 0b001#3 0x00#8) = .ok .rxIdle ∧
    (s.rx.busy = true → exec .rxIdle s = .next { s with rx := { s.rx with
      waitCnt := s.rx.waitCnt + 1#8
      state := if s.rx.waitCnt.toNat + 1 ≥ s.rx.waitLim.toNat then .exhausted else s.rx.state
      cause := if s.rx.waitCnt.toNat + 1 ≥ s.rx.waitLim.toNat then .waitLimit else s.rx.cause } }) ∧
    (s.rx.busy = false → exec .rxIdle s = .next s)

/-- R122: which RX event a cycle has, and that RX.NONE changes nothing.  The premise on `acc_len` holds in every lawful
busy state. -/
def Obligations.RxEventSelection : Prop :=
  (∀ s : State, exec .rxNone s = .next s) ∧
  ∀ (s : State) (start tick : Bool) (limit : Wait) (rest : List Offer), s.script = .rx start limit tick :: rest →
    (s.rx.busy = true → s.rx.accLen.toNat < 39) →
    step s =
      if start = true ∧ s.rx.busy = false then .next { s with script := rest, rx := rxStep dali s.rx (.start limit) }
      else if s.rx.busy = true ∧ s.wireIn ≠ [] then
        .next { s with script := rest, rx := rxStep dali s.rx (.byte (s.wireIn.headD 0x00#8)), wireIn := s.wireIn.tail }
      else if s.rx.busy = true ∧ tick = true then .next { s with script := rest, rx := rxStep dali s.rx .idle }
      else .next { s with script := rest }

/-- R134, and R135 for `IDLE`: while not busy, every operation but RX.START completes, keeps every RX register, and
consumes nothing of the wire source.  That an operation which is not the one selected, or a TX item which is not
accepted, is a step that completes is the model's choice (assumptions 5 and 1; R138 says it of RX events). -/
def Obligations.TerminalStatesHold : Prop :=
  ∀ (i : Instr) (s : State), s.rx.state = .complete ∨ s.rx.state = .exhausted ∨ s.rx.state = .idle →
    (∀ n, i ≠ .rxStart n) →
    ∃ t, exec i s = .next t ∧ t.rx = s.rx ∧ s.wireIn <+: t.wireIn

/-- R136: the read is masked by `acc_len`, has no side effect, and indices 39 to 63 always return 0x00. -/
def Obligations.RxReadIsMasked : Prop :=
  ∀ (i : Cnt) (s : State),
    exec (.rxRead i) s = .next { s with host := { s.host with
      rdData := if i.toNat < s.rx.accLen.toNat then Memory.read s.rx.acc i.toNat else 0x00#8 } } ∧
    (Lawful s → 39 ≤ i.toNat → ∃ t, exec (.rxRead i) s = .next t ∧ t.host.rdData = 0x00#8)

/-- The four classes of wire byte: while the RX unit is busy the wire source's oldest byte is consumed by the reference
step, and while it is not busy the byte stays in the wire source (R36, R54, R122). -/
def Obligations.WireBytesReachTheUnstuffer : Prop :=
  ∀ (i : Instr) (b : Byte), (i = .wireStart ∧ b = 0x7C#8) ∨ (i = .wireStop ∧ b = 0x7D#8) ∨
      (i = .wireEsc ∧ b = 0x7E#8) ∨ i = .wireLiteral b →
    ∀ s : State,
      (s.rx.busy = false → exec i s = .next { s with wireIn := s.wireIn ++ [b] }) ∧
      (s.rx.busy = true → s.rx.accLen.toNat < 39 → exec i s = .next { s with
        rx := rxStep dali s.rx (.byte (s.wireIn.headD b))
        wireIn := (s.wireIn ++ [b]).tail })

/-- R56 (b), R54: no wire byte is skipped, duplicated or reordered.  A step that takes no byte leaves the queue as
delivered, and the RX registers come from no byte; a step that takes one, only while busy, takes the queue's oldest, once.
The first two clauses say what is delivered where no event is named outright; where one is, `State.delivered` says it
(assumptions 8 and 18). -/
def Obligations.WireBytesAreConsumedInOrder : Prop :=
  (∀ (s : State) (b : Byte), s.offer = .wire b → s.delivered = [b]) ∧
  (∀ s : State, (∀ b, s.offer ≠ .wire b) → (∀ w, s.offer ≠ .event w) → s.delivered = []) ∧
  ∀ (s t : State), s.offer ≠ .flush → step s = .next t →
    (t.wireIn = s.wireIn ++ s.delivered ∧
      (t.rx = s.rx ∨ (∃ n, t.rx = rxStep dali s.rx (.start n)) ∨ t.rx = rxStep dali s.rx .idle ∨
        (s.offer = .rst ∧ t.rx = s.rx.resetFrom))) ∨
    (∃ b, s.rx.busy = true ∧ s.wireIn ++ s.delivered = b :: t.wireIn ∧ t.rx = rxStep dali s.rx (.byte b))

/-! ### Invocations -/

/-- R140 item 1, for every configuration with distinct markers: the round trip, with idle polls anywhere before the last
byte, fewer than the limit. -/
def Obligations.RoundTrip : Prop :=
  ∀ (c : Config), c.MarkersDistinct → c.CapFits →
    ∀ (r0 : RxUnit) (n : Wait) (p : List Byte) (before after : List PollItem), r0.busy = false →
      Memory.wf r0.acc = true →
      scriptBytes before = stuff c p → (∃ b, before.getLast? = some (.byte b)) →
      (stuff c p).length ≤ c.byteCap → scriptIdles before < n.toNat →
      ∃ r, decodeRun c r0 n (before ++ after) = (.frame p, before.length, r) ∧ r.byteCnt.toNat = (stuff c p).length

/-- R140 item 2, for every configuration with distinct markers: noise that opens no frame and leaves no escape pending
does not disturb the frame after it. -/
def Obligations.ResynchronisesAfterNoise : Prop :=
  ∀ (c : Config), c.MarkersDistinct → c.CapFits →
    ∀ (r0 : RxUnit) (n : Wait) (g p : List Byte) (before after : List PollItem), r0.busy = false →
      Memory.wf r0.acc = true → quietNoise c false g = true →
      scriptBytes before = g ++ stuff c p → (∃ b, before.getLast? = some (.byte b)) →
      g.length + (stuff c p).length ≤ c.byteCap → scriptIdles before < n.toNat →
      ∃ r, decodeRun c r0 n (before ++ after) = (.frame p, before.length, r)

/-- R218, for every configuration with distinct markers: an active escape marker as the last noise byte before a frame
hides the frame's start marker, and the whole frame is lost to the invocation: whatever idle polls there are and wherever
the invocation ends, it has no frame and an empty accumulator.  Short of the byte cap, with no idle poll, it is still
seeking after the last byte. -/
def Obligations.EscapeInTheNoiseHidesTheFrame : Prop :=
  ∀ (c : Config), c.MarkersDistinct →
    ∀ (r0 : RxUnit) (n : Wait) (g p : List Byte), r0.busy = false → quietNoise c false g = true →
      (∀ script, scriptBytes script = g ++ c.esc :: stuff c p →
        let run := decodeRun c r0 n script
        (run.1 = .absent ∨ run.1 = .pending) ∧ run.2.2.frame = []) ∧
      (c.CapFits → g.length + 1 + (stuff c p).length < c.byteCap →
        ∃ r, decodeRun c r0 n ((g ++ c.esc :: stuff c p).map .byte) =
            (.pending, g.length + 1 + (stuff c p).length, r) ∧
          r.state = .seeking ∧ r.frame = [])

/-- R219, R130: a frame whose stop marker was lost merges with the next one, whose start marker becomes a data byte. -/
def Obligations.LostStopMarkerMergesFrames : Prop :=
  ∀ (c : Config), c.MarkersDistinct → c.CapFits →
    ∀ (r0 : RxUnit) (n : Wait) (p q : List Byte), r0.busy = false → Memory.wf r0.acc = true →
      (c.start :: (p.flatMap (stuffByte c) ++ stuff c q)).length ≤ c.byteCap →
      ∃ r, decodeRun c r0 n ((c.start :: (p.flatMap (stuffByte c) ++ stuff c q)).map .byte) =
        (.frame (p ++ c.start :: q), (c.start :: (p.flatMap (stuffByte c) ++ stuff c q)).length, r)

/-- R140 item 3, for every configuration: silence gives up at the limit and not before. -/
def Obligations.SilenceGivesUpAtTheLimit : Prop :=
  ∀ (c : Config) (r0 : RxUnit) (n : Wait), r0.busy = false → 1 ≤ n.toNat →
    (∀ after, ∃ r, decodeRun c r0 n (List.replicate n.toNat .idle ++ after) = (.absent, n.toNat, r) ∧
      r.cause = .waitLimit ∧ r.waitCnt = n ∧ r.byteCnt = 0#6 ∧ r.accLen = 0#6) ∧
    (∃ r, decodeRun c r0 n (List.replicate (n.toNat - 1) .idle) = (.pending, n.toNat - 1, r))

/-- R140 item 4 and the termination of R138, for both values of the OPEN parameter: an invocation uses at most `BYTE_CAP`
bytes and, where the wait counter is cumulative, at most `n` idle polls (1 where `n` is 0); a script long enough ends it,
and an infinite script always does, after the same items as every prefix that long. -/
def Obligations.InvocationsAreBounded : Prop :=
  ∀ (c : Config), c.CapFits → ∀ (r0 : RxUnit) (n : Wait), r0.busy = false →
    (∀ script : List PollItem,
      let run := decodeRun c r0 n script
      (scriptBytes (script.take run.2.1)).length ≤ c.byteCap ∧
      run.2.1 ≤ c.byteCap * max n.toNat 1 ∧
      (c.byteCap * max n.toNat 1 ≤ script.length → run.1 ≠ .pending) ∧
      (c.waitReloadOnByte = false →
        scriptIdles (script.take run.2.1) ≤ max n.toNat 1 ∧
        (c.byteCap + max n.toNat 1 ≤ script.length → run.1 ≠ .pending))) ∧
    (∀ script : Nat → PollItem,
      let run := decodeRunForever c r0 n script
      run.1 ≠ .pending ∧
      (∀ k, run.2.1 ≤ k → decodeRun c r0 n ((List.range k).map script) = run) ∧
      (∀ k, k < run.2.1 → (decodeRun c r0 n ((List.range k).map script)).1 = .pending))

/-- R140 item 5, R57: nothing of an earlier invocation, the stale accumulator cells among it, is visible in the result of
a later one. -/
def Obligations.NothingIsRetainedAcrossInvocations : Prop :=
  ∀ (c : Config) (r1 r2 : RxUnit) (n : Wait) (script : List PollItem), r1.busy = false → r2.busy = false →
    Memory.wf r1.acc = true → Memory.wf r2.acc = true →
    (decodeRun c r1 n script).1 = (decodeRun c r2 n script).1 ∧
    (decodeRun c r1 n script).2.1 = (decodeRun c r2 n script).2.1

/-- The machine run on the environment of a poll script ends where the reference run ends: same registers, and the items
not used are still to come. -/
def Obligations.MachineRunsTheReferenceRun : Prop :=
  ∀ (s : State) (n : Wait) (script : List PollItem), Lawful s → s.rx.busy = false → s.wireIn = [] →
    s.script = .rx true n false :: script.map pollOffer →
    let run := decodeRun dali s.rx n script
    runSteps (1 + run.2.1) s =
      .next { s with rx := run.2.2, script := (script.drop run.2.1).map pollOffer }

/-! ### Lawful states -/

/-- R38 holds at reset. -/
def Obligations.ResetIsLawful : Prop := Lawful State.reset

/-- R38: every step keeps the invariants. -/
def Obligations.EveryStepKeepsLawful : Prop := ∀ s t : State, Lawful s → step s = .next t → Lawful t

/-- No lawful state stops: no outcome of R190 is a fault of the block, as long as the environment names only events that
exist (R81 d).  That an illegal TX item, which R190 calls stuck, is a step that completes is the model's choice (assumption
1), and so is that an operation which is not the one selected is one (assumptions 5 and 18). -/
def Obligations.LawfulStatesNeverStop : Prop :=
  ∀ s : State, Lawful s → OffersDecode s → ∃ t, step s = .next t

/-- R190, R191, R195: the only ways into `EXHAUSTED`, and every register each leaves: by the byte cap, what the count and
the arm of the byte consumed make of the registers; by the wait limit, the idle poll counted; and then the state and the
cause, nothing else. -/
def Obligations.GiveUpHasTwoCauses : Prop :=
  ∀ s t : State, step s = .next t → s.rx.state ≠ .exhausted → t.rx.state = .exhausted →
    s.rx.busy = true ∧
    ((∃ b, s.wireIn ++ s.delivered = b :: t.wireIn ∧ (s.rx.byteCnt + 1#6).toNat = 40 ∧
        t.rx = { byteArm dali s.rx.state b { s.rx with
            byteCnt := s.rx.byteCnt + 1#6
            waitCnt := if dali.waitReloadOnByte then 0#8 else s.rx.waitCnt } with
          state := .exhausted, cause := .byteCap }) ∨
     (t.wireIn = s.wireIn ∧ s.rx.waitLim.toNat ≤ s.rx.waitCnt.toNat + 1 ∧
        t.rx = { s.rx with waitCnt := s.rx.waitCnt + 1#8, state := .exhausted, cause := .waitLimit }))

/-- R196: the only ways out of a terminal state are RX.START, which clears the cause, the counters and `acc_len` and
begins a fresh invocation in `SEEKING`, and reset; no give-up happens in a terminal state. -/
def Obligations.OnlyStartOrResetLeavesATerminalState : Prop :=
  ∀ s t : State, s.rx.state = .complete ∨ s.rx.state = .exhausted → step s = .next t →
    t.rx = s.rx ∨ s.offer = .rst ∨
    (∃ w n, fetch s = .word w ∧ decode w = .ok (.rxStart n) ∧ t.rx = { s.rx with
      state := .seeking, accLen := 0#6, byteCnt := 0#6, waitCnt := 0#8, waitLim := n, cause := .none })

/-! ### What an operation leaves alone -/

/-- Which operations write which registers: the TX unit and the outbound stream only the TX operations (R59), `tx_hold`
only the marker form (R22), `wait_lim` only RX.START (R28), the RX registers and the wire source only the RX and WIRE
operations (R59, R160); a byte emitted is never taken back (R54). -/
def Obligations.RegistersAreWrittenOnlyByTheirOperations : Prop :=
  ∀ (i : Instr) (s t : State), exec i s = .next t →
    s.wireOut <+: t.wireOut ∧ t.script = s.script ∧
    ((encode i).format ≠ .txItem → t.tx = s.tx ∧ t.wireOut = s.wireOut) ∧
    ((∀ b, i ≠ .txDataMarker b) → t.tx.hold = s.tx.hold) ∧
    ((∀ n, i ≠ .rxStart n) → t.rx.waitLim = s.rx.waitLim) ∧
    ((encode i).format ≠ .wire → (encode i).format ≠ .rxEvent → t.rx = s.rx ∧ t.wireIn = s.wireIn)

/-- R24: the accumulator is written only by `Append`, in the cell `acc_len`; every other cell reads as before, and where
no byte is appended every cell does: in a state that appends nothing, in every operation but the two appending rows and
the wire bytes, and in those where the byte taken is not appended. -/
def Obligations.OnlyAppendWritesTheAccumulator : Prop :=
  ∀ (i : Instr) (s t : State), exec i s = .next t →
    (∀ a, a ≠ s.rx.accLen.toNat → Memory.read t.rx.acc a = Memory.read s.rx.acc a) ∧
    (s.rx.state ≠ .inframe → s.rx.state ≠ .escFrame → t.rx.acc = s.rx.acc) ∧
    ((∀ b, i ≠ .rxByteInframeOther b) → (∀ b, i ≠ .rxByteEscFrame b) → (encode i).format ≠ .wire →
      t.rx.acc = s.rx.acc) ∧
    ((∀ b rest, s.wireIn ++ i.delivers s = b :: rest → s.rx.appends dali b = false) → t.rx.acc = s.rx.acc)

/-- R59: a TX cycle and a cycle of the RX unit, the wire source or the host commute. -/
def Obligations.UnitsCommute : Prop :=
  ∀ (s : State) (i : TxIn) (o : Offer) (rest : List Offer),
    (∃ start limit tick, o = .rx start limit tick) ∨ (∃ b, o = .wire b) ∨ (∃ k, o = .read k) ∨ o = .parse ∨
      (∃ v, o = .status v) →
    runSteps 2 { s with script := .tx i :: o :: rest } =
      runSteps 2 { s with script := o :: .tx i :: rest }

/-- R6, R107, R122: one clock cycle with both units stepping is a TX step and an RX step of the machine, when the wire
source offers the head of its queue. -/
def Obligations.ClockEdgeIsTwoSteps : Prop :=
  ∀ (s : State) (i : Inputs) (rest : List Offer), Lawful s → i.rst = false → i.wrxValid = !s.wireIn.isEmpty →
    i.wrxData = s.wireIn.headD 0x00#8 →
    s.script = .tx i.tx :: .rx i.rxStart i.rxWaitLimit i.pollTick :: rest →
    ∃ t, runSteps 2 s = .next t ∧ (t.tx, t.rx) = clockEdge dali s.tx s.rx i ∧ t.script = rest ∧
      t.wireIn = (if (outputs dali s.tx s.rx i).wrxReady && i.wrxValid then s.wireIn.tail else s.wireIn)

/-! ### The message parser -/

/-- R161, R164: the two kinds with a status byte alone. -/
def Obligations.StatusOnlyMessages : Prop :=
  ∀ (s : State) (payload : List Byte),
    let message (k : MsgKind) (h : Byte) : Message := ⟨k, h, payload.getD 0 0x00#8, 0x00#8, 0x00#8, decide (payload.length < 1)⟩
    let seen (m : Message) : State := { s with host := { s.host with
      msg := m, msgOk := s.rx.state == .complete, flags := statusDecode m.status } }
    (s.rx.frame = 0x0A#8 :: payload →
      exec .msgTimeframeExpired s = .next (seen (message .timeframeExpired 0x0A#8))) ∧
    (s.rx.frame = 0x0B#8 :: payload →
      exec .msgInvalidDaliFrame s = .next (seen (message .invalidDaliFrame 0x0B#8)))

/-- R162: status byte, one data byte, and the backward-frame value. -/
def Obligations.OneByteReplies : Prop :=
  ∀ (s : State) (payload : List Byte), s.rx.frame = 0x02#8 :: payload →
    let m : Message :=
      ⟨.daliRcv1Bytes, 0x02#8, payload.getD 0 0x00#8, payload.getD 1 0x00#8, 0x00#8, decide (payload.length < 2)⟩
    exec .msgDaliRcv1Bytes s = .next { s with host := { s.host with
      msg := m, msgOk := s.rx.state == .complete, flags := statusDecode m.status } } ∧
    m.value8 = (payload.getD 1 0x00#8).toNat

/-- R163: status byte, two data bytes in transmission order, and the forward-frame value.  That the first byte is the more
significant in the value is a choice, the spec's D20 (assumption 12, DESIGN CHOICE). -/
def Obligations.TwoByteReplies : Prop :=
  ∀ (s : State) (payload : List Byte), s.rx.frame = 0x03#8 :: payload →
    let m : Message := ⟨.daliRcv2Bytes, 0x03#8, payload.getD 0 0x00#8, payload.getD 1 0x00#8, payload.getD 2 0x00#8,
      decide (payload.length < 3)⟩
    exec .msgDaliRcv2Bytes s = .next { s with host := { s.host with
      msg := m, msgOk := s.rx.state == .complete, flags := statusDecode m.status } } ∧
    m.value16 = (payload.getD 1 0x00#8).toNat * 256 + (payload.getD 2 0x00#8).toNat ∧ m.value16 ≤ 65535

/-- R165: an echo has no status byte, and its data byte stands at offset 1. -/
def Obligations.EchoMessages : Prop :=
  ∀ (s : State) (payload : List Byte), s.rx.frame = 0x1E#8 :: payload →
    let m : Message := ⟨.echo, 0x1E#8, 0x00#8, payload.getD 0 0x00#8, 0x00#8, decide (payload.length < 1)⟩
    exec .msgEcho s = .next { s with host := { s.host with
      msg := m, msgOk := s.rx.state == .complete, flags := statusDecode 0x00#8 } } ∧
    m.echoed = payload.getD 0 0x00#8

/-- R166, R167, R168: a received command, a header without a kind, and the empty frame: nothing is extracted. -/
def Obligations.MessagesWithoutFields : Prop :=
  ∀ (s : State) (payload : List Byte),
    let seen (k : MsgKind) (h : Byte) (lenErr : Bool) : State := { s with host := { s.host with
      msg := ⟨k, h, 0x00#8, 0x00#8, 0x00#8, lenErr⟩, msgOk := s.rx.state == .complete, flags := statusDecode 0x00#8 } }
    (s.rx.frame = 0x01#8 :: payload → exec .msgDaliCommand s = .next (seen .daliCommand 0x01#8 false)) ∧
    (∀ h : Byte, h ≠ 0x01#8 → h ≠ 0x02#8 → h ≠ 0x03#8 → h ≠ 0x0A#8 → h ≠ 0x0B#8 → h ≠ 0x1E#8 →
      s.rx.frame = h :: payload → exec (.msgUnknown h) s = .next (seen .unknown h false)) ∧
    (s.rx.frame = [] → exec (.msgUnknown 0x00#8) s = .next (seen .unknown 0x00#8 true))

/-- R160, R172: when the host takes the parser's outputs it sees `Parse` of the decoded frame, whatever the state. -/
def Obligations.ParserStepIsParse : Prop :=
  ∀ (s : State) (rest : List Offer), s.script = .parse :: rest →
    step s = .next { s with
      script := rest
      host := { s.host with
        msg := parse dali s.rx.frame
        msgOk := s.rx.state == .complete
        flags := statusDecode (parse dali s.rx.frame).status } }

/-- R169, R170, for every configuration: the kind is selected by the header alone, the length error says exactly that the
frame is shorter than the kind's layout, and bytes beyond the layout change nothing. -/
def Obligations.FrameLengthsAreJudged : Prop :=
  ∀ (c : Config) (h : Byte) (payload : List Byte),
    let m := parse c (h :: payload)
    m.kind = kindOfHeader c h ∧ m.header = h ∧ m.lenErr = decide ((h :: payload).length < m.kind.need) ∧
    ∀ surplus, m.kind.need ≤ (h :: payload).length → parse c (h :: (payload ++ surplus)) = m

/-- R171: each flag is its bit of the status byte; that bit 7 is the mask 0x80 is from general knowledge (the spec's G1;
assumption 11, PRESUMED).  The flags of a message without a status byte all read false. -/
def Obligations.StatusFlagsAreTheBits : Prop :=
  (∀ (v : Byte) (s : State),
    exec (.status v) s = .next { s with host := { s.host with flags :=
      { busErr := v &&& 0x80#8 != 0#8, busy := v &&& 0x40#8 != 0#8, overrun := v &&& 0x20#8 != 0#8,
        frameError := v &&& 0x10#8 != 0#8, validReply := v &&& 0x08#8 != 0#8, timeframe := v &&& 0x04#8 != 0#8,
        rcv2Byte := v &&& 0x02#8 != 0#8, rcv1Byte := v &&& 0x01#8 != 0#8 } } }) ∧
  (∀ f : List Byte, (parse dali f).kind = .echo ∨ (parse dali f).kind = .daliCommand ∨ (parse dali f).kind = .unknown →
    (parse dali f).status = 0x00#8 ∧
      statusDecode (parse dali f).status = ⟨false, false, false, false, false, false, false, false⟩)

/-- R175: what the host builds, the parser recognises, and the header the parser dispatches on is the table's value in
both directions; for every configuration whose header values are distinct. -/
def Obligations.BuildersParseBack : Prop :=
  ∀ (c : Config), c.HeadersDistinct →
    (∀ b, (parse c (buildEcho c b)).kind = .echo ∧ (parse c (buildEcho c b)).echoed = b ∧
      (parse c (buildEcho c b)).lenErr = false) ∧
    (∀ a o p d isConfig, (parse c (buildCommand c a o p d isConfig)).kind = .daliCommand) ∧
    (∀ k h, headerOfKind c k = some h → ∀ rest, (parse c (h :: rest)).kind = k ∧ (parse c (h :: rest)).header = h)
end

