-- ==== Sys2Proof/Laws/Decode.lean ====
section
/-! SUPPORT. Reading the fields back out of a fetch word, and the decoder on a word of each format. -/

namespace Sys2Proof

open Sys2Proof.Machine

@[simp] theorem itemData_append (k : BitVec 2) (b : Byte) : itemData (k ++ b) = b := by
  apply BitVec.eq_of_getLsbD_eq
  intro i hi
  simp only [itemData, BitVec.getLsbD_setWidth, BitVec.getLsbD_append]
  simp [hi]

@[simp] theorem itemKind_append (k : BitVec 2) (b : Byte) : itemKind (k ++ b) = k := by
  apply BitVec.eq_of_getLsbD_eq
  intro i hi
  simp only [itemKind, BitVec.getLsbD_setWidth, BitVec.getLsbD_ushiftRight, BitVec.getLsbD_append]
  simp [hi]

@[simp] theorem eventData_append (v : BitVec 3) (b : Byte) : eventData (v ++ b) = b := by
  apply BitVec.eq_of_getLsbD_eq
  intro i hi
  simp only [eventData, BitVec.getLsbD_setWidth, BitVec.getLsbD_append]
  simp [hi]

@[simp] theorem eventVector_append (v : BitVec 3) (b : Byte) : eventVector (v ++ b) = v := by
  apply BitVec.eq_of_getLsbD_eq
  intro i hi
  simp only [eventVector, BitVec.getLsbD_setWidth, BitVec.getLsbD_ushiftRight, BitVec.getLsbD_append]
  simp [hi]

theorem decode_wireWord (b : Byte) : decode (.wire b) = .ok (decodeWire b) := rfl

theorem decode_headerWord (h : Byte) : decode (.header h) = .ok (decodeHeader h) := rfl

theorem decode_statusWord (v : Byte) : decode (.status v) = .ok (.status v) := rfl

theorem decode_txWord (q k : BitVec 2) (b : Byte) : decode (txWord q k b) = decodeTx q k b := by
  simp only [decode, txWord, itemKind_append, itemData_append]

theorem decode_rxWord (q v : BitVec 3) (b : Byte) : decode (rxWord q v b) = decodeRx q v b := by
  simp only [decode, rxWord, eventVector_append, eventData_append]

theorem decode_readWord (i : Cnt) : decode (.readPort i) = .ok (.rxRead i) := rfl

end Sys2Proof
end

