-- ==== Sys2Proof/Laws/Memory.lean ====
section
/-! SUPPORT. The accumulator's cells: a read after a write, and that every write keeps the canonical form. -/

namespace Sys2Proof.Machine

theorem Memory.wfFrom_mono {low low' : Nat} (h : low' ≤ low) :
    ∀ {m : Memory}, Memory.wfFrom low m = true → Memory.wfFrom low' m = true
  | [], _ => rfl
  | (k, v) :: rest, hm => by
    simp only [Memory.wfFrom, Bool.and_eq_true, decide_eq_true_eq] at hm ⊢
    exact ⟨⟨by omega, hm.1.2⟩, hm.2⟩

/-- Below every listed index, a canonical accumulator reads as the fill byte. -/
theorem Memory.read_below {a : Nat} :
    ∀ {low : Nat} {m : Memory}, Memory.wfFrom low m = true → a < low → Memory.read m a = Memory.fill
  | _, [], _, _ => rfl
  | low, (k, v) :: rest, hm, ha => by
    simp only [Memory.wfFrom, Bool.and_eq_true, decide_eq_true_eq] at hm
    have hk : k ≠ a := by omega
    simp only [Memory.read, hk, if_false]
    exact Memory.read_below hm.2 (by omega)

theorem Memory.read_write_same {a : Nat} {b : Byte} :
    ∀ {low : Nat} {m : Memory}, Memory.wfFrom low m = true → Memory.read (Memory.write m a b) a = b
  | _, [], _ => by
    by_cases hb : b = Memory.fill <;> simp [Memory.write, Memory.read, hb]
  | low, (k, v) :: rest, hm => by
    simp only [Memory.wfFrom, Bool.and_eq_true, decide_eq_true_eq] at hm
    by_cases hlt : a < k
    · by_cases hb : b = Memory.fill
      · have hk : k ≠ a := by omega
        simp only [Memory.write, hlt, hb, if_true, Memory.read, hk, if_false]
        exact Memory.read_below hm.2 (by omega)
      · simp [Memory.write, hlt, hb, Memory.read]
    · by_cases heq : a = k
      · by_cases hb : b = Memory.fill
        · simp only [Memory.write, heq, hb, if_true, if_false, Nat.lt_irrefl]
          exact Memory.read_below hm.2 (by omega)
        · simp [Memory.write, heq, hb, Memory.read]
      · have hk : k ≠ a := fun h => heq h.symm
        simp only [Memory.write, hlt, heq, if_false, Memory.read, hk]
        exact Memory.read_write_same hm.2

theorem Memory.read_write_of_ne {a a' : Nat} {b : Byte} (hne : a' ≠ a) :
    ∀ m : Memory, Memory.read (Memory.write m a b) a' = Memory.read m a'
  | [] => by
    by_cases hb : b = Memory.fill <;> simp [Memory.write, Memory.read, hb, hne.symm]
  | (k, v) :: rest => by
    have ih := Memory.read_write_of_ne (b := b) hne rest
    by_cases hlt : a < k
    · by_cases hb : b = Memory.fill <;> simp [Memory.write, hlt, hb, Memory.read, hne.symm]
    · by_cases heq : a = k
      · subst heq
        by_cases hb : b = Memory.fill <;> simp [Memory.write, hb, Memory.read, hne.symm]
      · simp only [Memory.write, hlt, heq, if_false, Memory.read, ih]

theorem Memory.wfFrom_write {a : Nat} {b : Byte} :
    ∀ {low : Nat} {m : Memory}, Memory.wfFrom low m = true → low ≤ a → Memory.wfFrom low (Memory.write m a b) = true
  | low, [], _, ha => by
    by_cases hb : b = Memory.fill <;> simp [Memory.write, Memory.wfFrom, hb, ha]
  | low, (k, v) :: rest, hm, ha => by
    have hm' := hm
    simp only [Memory.wfFrom, Bool.and_eq_true, decide_eq_true_eq] at hm
    by_cases hlt : a < k
    · by_cases hb : b = Memory.fill
      · simpa only [Memory.write, hlt, hb, if_true] using hm'
      · simp only [Memory.write, hlt, hb, if_true, if_false, Memory.wfFrom, Bool.and_eq_true, decide_eq_true_eq]
        exact ⟨⟨ha, by simp [hb]⟩, ⟨by omega, hm.1.2⟩, hm.2⟩
    · by_cases heq : a = k
      · by_cases hb : b = Memory.fill
        · simp only [Memory.write, heq, hb, if_true, if_false, Nat.lt_irrefl]
          exact Memory.wfFrom_mono (by omega) hm.2
        · simp only [Memory.write, heq, hb, if_true, if_false, Nat.lt_irrefl, Memory.wfFrom, Bool.and_eq_true,
            decide_eq_true_eq]
          exact ⟨⟨by omega, by simp [hb]⟩, hm.2⟩
      · simp only [Memory.write, hlt, heq, if_false, Memory.wfFrom, Bool.and_eq_true, decide_eq_true_eq]
        exact ⟨hm.1, Memory.wfFrom_write hm.2 (by omega)⟩

/-- Every write keeps the canonical form. -/
theorem Memory.wf_write {m : Memory} (hm : Memory.wf m = true) (a : Nat) (b : Byte) :
    Memory.wf (Memory.write m a b) = true := Memory.wfFrom_write hm (Nat.zero_le a)

/-- A write inside the accumulator lists no index outside it. -/
theorem Memory.within_write {cap a : Nat} {b : Byte} (ha : a < cap) :
    ∀ {m : Memory}, Memory.within cap m = true → Memory.within cap (Memory.write m a b) = true
  | [], _ => by
    by_cases hb : b = Memory.fill <;> simp [Memory.write, Memory.within, hb, ha]
  | (k, v) :: rest, hm => by
    have ih := Memory.within_write (b := b) ha (m := rest)
    simp only [Memory.within, List.all_cons, Bool.and_eq_true, decide_eq_true_eq] at hm ih ⊢
    simp only [Memory.write]
    split
    · split <;> simp only [List.all_cons, Bool.and_eq_true, decide_eq_true_eq]
      · exact hm
      · exact ⟨ha, hm⟩
    · split
      · split
        · exact hm.2
        · simp only [List.all_cons, Bool.and_eq_true, decide_eq_true_eq]
          exact ⟨ha, hm.2⟩
      · simp only [List.all_cons, Bool.and_eq_true, decide_eq_true_eq]
        exact ⟨hm.1, ih hm.2⟩

/-- Outside the accumulator nothing is listed, so the fill byte is read. -/
theorem Memory.read_beyond {cap a : Nat} (ha : cap ≤ a) :
    ∀ {m : Memory}, Memory.within cap m = true → Memory.read m a = Memory.fill
  | [], _ => rfl
  | (k, v) :: rest, hm => by
    simp only [Memory.within, List.all_cons, Bool.and_eq_true, decide_eq_true_eq] at hm
    have hk : k ≠ a := by omega
    simp only [Memory.read, hk, if_false]
    exact Memory.read_beyond ha hm.2

end Sys2Proof.Machine
end

