-- ==== Sys2Proof/Laws/State.lean ====
section
/-! SUPPORT. One lemma per field per update of State and of the RX registers, all true by unfolding. -/

namespace Sys2Proof.Machine

/-! ### State.advance, State.applyReset, State.flushWire -/

@[simp] theorem State.advance_tx (s : State) : s.advance.tx = s.tx := rfl
@[simp] theorem State.advance_rx (s : State) : s.advance.rx = s.rx := rfl
@[simp] theorem State.advance_wireIn (s : State) : s.advance.wireIn = s.wireIn := rfl
@[simp] theorem State.advance_wireOut (s : State) : s.advance.wireOut = s.wireOut := rfl
@[simp] theorem State.advance_host (s : State) : s.advance.host = s.host := rfl
@[simp] theorem State.advance_script (s : State) : s.advance.script = s.script.tail := rfl

@[simp] theorem State.applyReset_tx (s : State) : s.applyReset.tx = TxUnit.reset := rfl
@[simp] theorem State.applyReset_rx (s : State) : s.applyReset.rx = s.rx.resetFrom := rfl
@[simp] theorem State.applyReset_wireIn (s : State) : s.applyReset.wireIn = s.wireIn := rfl
@[simp] theorem State.applyReset_wireOut (s : State) : s.applyReset.wireOut = s.wireOut := rfl
@[simp] theorem State.applyReset_host (s : State) : s.applyReset.host = s.host := rfl
@[simp] theorem State.applyReset_script (s : State) : s.applyReset.script = s.script := rfl

@[simp] theorem State.flushWire_tx (s : State) : s.flushWire.tx = s.tx := rfl
@[simp] theorem State.flushWire_rx (s : State) : s.flushWire.rx = s.rx := rfl
@[simp] theorem State.flushWire_wireIn (s : State) : s.flushWire.wireIn = [] := rfl
@[simp] theorem State.flushWire_wireOut (s : State) : s.flushWire.wireOut = s.wireOut := rfl
@[simp] theorem State.flushWire_host (s : State) : s.flushWire.host = s.host := rfl
@[simp] theorem State.flushWire_script (s : State) : s.flushWire.script = s.script := rfl

/-! ### State.consume, State.emit, State.txSample -/

@[simp] theorem State.consume_tx (s : State) (r : RxUnit) : (s.consume r).tx = s.tx := rfl
@[simp] theorem State.consume_rx (s : State) (r : RxUnit) : (s.consume r).rx = r := rfl
@[simp] theorem State.consume_wireIn (s : State) (r : RxUnit) : (s.consume r).wireIn = s.wireIn.tail := rfl
@[simp] theorem State.consume_wireOut (s : State) (r : RxUnit) : (s.consume r).wireOut = s.wireOut := rfl
@[simp] theorem State.consume_host (s : State) (r : RxUnit) : (s.consume r).host = s.host := rfl
@[simp] theorem State.consume_script (s : State) (r : RxUnit) : (s.consume r).script = s.script := rfl

@[simp] theorem State.emit_tx (s : State) (b : Byte) (t : TxUnit) : (s.emit b t).tx = t := rfl
@[simp] theorem State.emit_rx (s : State) (b : Byte) (t : TxUnit) : (s.emit b t).rx = s.rx := rfl
@[simp] theorem State.emit_wireIn (s : State) (b : Byte) (t : TxUnit) : (s.emit b t).wireIn = s.wireIn := rfl
@[simp] theorem State.emit_wireOut (s : State) (b : Byte) (t : TxUnit) : (s.emit b t).wireOut = s.wireOut ++ [b] := rfl
@[simp] theorem State.emit_host (s : State) (b : Byte) (t : TxUnit) : (s.emit b t).host = s.host := rfl
@[simp] theorem State.emit_script (s : State) (b : Byte) (t : TxUnit) : (s.emit b t).script = s.script := rfl

@[simp] theorem State.txSample_tx (s : State) (a e : Bool) : (s.txSample a e).tx = s.tx := rfl
@[simp] theorem State.txSample_rx (s : State) (a e : Bool) : (s.txSample a e).rx = s.rx := rfl
@[simp] theorem State.txSample_wireIn (s : State) (a e : Bool) : (s.txSample a e).wireIn = s.wireIn := rfl
@[simp] theorem State.txSample_wireOut (s : State) (a e : Bool) : (s.txSample a e).wireOut = s.wireOut := rfl
@[simp] theorem State.txSample_host (s : State) (a e : Bool) :
    (s.txSample a e).host = { s.host with txReady := a, txErr := e } := rfl
@[simp] theorem State.txSample_script (s : State) (a e : Bool) : (s.txSample a e).script = s.script := rfl

/-! ### The host's other samples -/

@[simp] theorem State.sampleMsg_tx (s : State) (m : Message) : (s.sampleMsg m).tx = s.tx := rfl
@[simp] theorem State.sampleMsg_rx (s : State) (m : Message) : (s.sampleMsg m).rx = s.rx := rfl
@[simp] theorem State.sampleMsg_wireIn (s : State) (m : Message) : (s.sampleMsg m).wireIn = s.wireIn := rfl
@[simp] theorem State.sampleMsg_wireOut (s : State) (m : Message) : (s.sampleMsg m).wireOut = s.wireOut := rfl
@[simp] theorem State.sampleMsg_host (s : State) (m : Message) :
    (s.sampleMsg m).host = { s.host with msg := m, msgOk := s.rx.ok, flags := statusDecode m.status } := rfl
@[simp] theorem State.sampleMsg_script (s : State) (m : Message) : (s.sampleMsg m).script = s.script := rfl

@[simp] theorem State.sampleFlags_tx (s : State) (f : StatusFlags) : (s.sampleFlags f).tx = s.tx := rfl
@[simp] theorem State.sampleFlags_rx (s : State) (f : StatusFlags) : (s.sampleFlags f).rx = s.rx := rfl
@[simp] theorem State.sampleFlags_wireIn (s : State) (f : StatusFlags) : (s.sampleFlags f).wireIn = s.wireIn := rfl
@[simp] theorem State.sampleFlags_wireOut (s : State) (f : StatusFlags) : (s.sampleFlags f).wireOut = s.wireOut := rfl
@[simp] theorem State.sampleFlags_host (s : State) (f : StatusFlags) :
    (s.sampleFlags f).host = { s.host with flags := f } := rfl
@[simp] theorem State.sampleFlags_script (s : State) (f : StatusFlags) : (s.sampleFlags f).script = s.script := rfl

@[simp] theorem State.sampleRead_tx (s : State) (b : Byte) : (s.sampleRead b).tx = s.tx := rfl
@[simp] theorem State.sampleRead_rx (s : State) (b : Byte) : (s.sampleRead b).rx = s.rx := rfl
@[simp] theorem State.sampleRead_wireIn (s : State) (b : Byte) : (s.sampleRead b).wireIn = s.wireIn := rfl
@[simp] theorem State.sampleRead_wireOut (s : State) (b : Byte) : (s.sampleRead b).wireOut = s.wireOut := rfl
@[simp] theorem State.sampleRead_host (s : State) (b : Byte) : (s.sampleRead b).host = { s.host with rdData := b } := rfl
@[simp] theorem State.sampleRead_script (s : State) (b : Byte) : (s.sampleRead b).script = s.script := rfl

/-! ### The RX registers -/

@[simp] theorem giveUp_state (k : Cause) (r : RxUnit) : (giveUp k r).state = .exhausted := rfl
@[simp] theorem giveUp_cause (k : Cause) (r : RxUnit) : (giveUp k r).cause = k := rfl
@[simp] theorem giveUp_acc (k : Cause) (r : RxUnit) : (giveUp k r).acc = r.acc := rfl
@[simp] theorem giveUp_accLen (k : Cause) (r : RxUnit) : (giveUp k r).accLen = r.accLen := rfl
@[simp] theorem giveUp_byteCnt (k : Cause) (r : RxUnit) : (giveUp k r).byteCnt = r.byteCnt := rfl
@[simp] theorem giveUp_waitCnt (k : Cause) (r : RxUnit) : (giveUp k r).waitCnt = r.waitCnt := rfl
@[simp] theorem giveUp_waitLim (k : Cause) (r : RxUnit) : (giveUp k r).waitLim = r.waitLim := rfl

@[simp] theorem startInvocation_state (n : Wait) (r : RxUnit) : (startInvocation n r).state = .seeking := rfl
@[simp] theorem startInvocation_cause (n : Wait) (r : RxUnit) : (startInvocation n r).cause = .none := rfl
@[simp] theorem startInvocation_acc (n : Wait) (r : RxUnit) : (startInvocation n r).acc = r.acc := rfl
@[simp] theorem startInvocation_accLen (n : Wait) (r : RxUnit) : (startInvocation n r).accLen = 0#6 := rfl
@[simp] theorem startInvocation_byteCnt (n : Wait) (r : RxUnit) : (startInvocation n r).byteCnt = 0#6 := rfl
@[simp] theorem startInvocation_waitCnt (n : Wait) (r : RxUnit) : (startInvocation n r).waitCnt = 0#8 := rfl
@[simp] theorem startInvocation_waitLim (n : Wait) (r : RxUnit) : (startInvocation n r).waitLim = n := rfl

@[simp] theorem countByte_state (c : Config) (r : RxUnit) : (countByte c r).state = r.state := rfl
@[simp] theorem countByte_cause (c : Config) (r : RxUnit) : (countByte c r).cause = r.cause := rfl
@[simp] theorem countByte_acc (c : Config) (r : RxUnit) : (countByte c r).acc = r.acc := rfl
@[simp] theorem countByte_accLen (c : Config) (r : RxUnit) : (countByte c r).accLen = r.accLen := rfl
@[simp] theorem countByte_byteCnt (c : Config) (r : RxUnit) : (countByte c r).byteCnt = r.byteCnt + 1 := rfl
@[simp] theorem countByte_waitLim (c : Config) (r : RxUnit) : (countByte c r).waitLim = r.waitLim := rfl
@[simp] theorem countByte_waitCnt (c : Config) (r : RxUnit) :
    (countByte c r).waitCnt = if c.waitReloadOnByte then 0#8 else r.waitCnt := rfl

@[simp] theorem append_state (b : Byte) (r : RxUnit) : (append b r).state = r.state := rfl
@[simp] theorem append_cause (b : Byte) (r : RxUnit) : (append b r).cause = r.cause := rfl
@[simp] theorem append_acc (b : Byte) (r : RxUnit) : (append b r).acc = Memory.write r.acc r.accLen.toNat b := rfl
@[simp] theorem append_accLen (b : Byte) (r : RxUnit) : (append b r).accLen = r.accLen + 1 := rfl
@[simp] theorem append_byteCnt (b : Byte) (r : RxUnit) : (append b r).byteCnt = r.byteCnt := rfl
@[simp] theorem append_waitCnt (b : Byte) (r : RxUnit) : (append b r).waitCnt = r.waitCnt := rfl
@[simp] theorem append_waitLim (b : Byte) (r : RxUnit) : (append b r).waitLim = r.waitLim := rfl

@[simp] theorem goto_state (S : RxState) (r : RxUnit) : (goto S r).state = S := rfl
@[simp] theorem goto_cause (S : RxState) (r : RxUnit) : (goto S r).cause = r.cause := rfl
@[simp] theorem goto_acc (S : RxState) (r : RxUnit) : (goto S r).acc = r.acc := rfl
@[simp] theorem goto_accLen (S : RxState) (r : RxUnit) : (goto S r).accLen = r.accLen := rfl
@[simp] theorem goto_byteCnt (S : RxState) (r : RxUnit) : (goto S r).byteCnt = r.byteCnt := rfl
@[simp] theorem goto_waitCnt (S : RxState) (r : RxUnit) : (goto S r).waitCnt = r.waitCnt := rfl
@[simp] theorem goto_waitLim (S : RxState) (r : RxUnit) : (goto S r).waitLim = r.waitLim := rfl

end Sys2Proof.Machine
end

