-- ==== Sys2Proof/Laws/Ops.lean ====
section
/-! SUPPORT. What each shared operation can do, said once: the byte-cap check, the idle poll, the reference step,
consuming and delivering a byte, and the TX handshake. -/

namespace Sys2Proof.Machine

theorem RxUnit.busy_iff (r : RxUnit) :
    r.busy = true ↔ r.state = .seeking ∨ r.state = .inframe ∨ r.state = .escSeek ∨ r.state = .escFrame := by
  unfold RxUnit.busy; cases r.state <;> simp

theorem RxUnit.not_busy_iff (r : RxUnit) :
    r.busy = false ↔ r.state = .idle ∨ r.state = .complete ∨ r.state = .exhausted := by
  unfold RxUnit.busy; cases r.state <;> simp

/-! ### The byte-cap check: only `rx_state` and `rx_cause` can change -/

@[simp] theorem capCheck_acc (c : Config) (r : RxUnit) : (capCheck c r).acc = r.acc := by
  unfold capCheck; split <;> rfl
@[simp] theorem capCheck_accLen (c : Config) (r : RxUnit) : (capCheck c r).accLen = r.accLen := by
  unfold capCheck; split <;> rfl
@[simp] theorem capCheck_byteCnt (c : Config) (r : RxUnit) : (capCheck c r).byteCnt = r.byteCnt := by
  unfold capCheck; split <;> rfl
@[simp] theorem capCheck_waitCnt (c : Config) (r : RxUnit) : (capCheck c r).waitCnt = r.waitCnt := by
  unfold capCheck; split <;> rfl
@[simp] theorem capCheck_waitLim (c : Config) (r : RxUnit) : (capCheck c r).waitLim = r.waitLim := by
  unfold capCheck; split <;> rfl

theorem capCheck_of_complete {c : Config} {r : RxUnit} (h : r.state = .complete) : capCheck c r = r := by
  simp [capCheck, h]

theorem capCheck_of_below {c : Config} {r : RxUnit} (h : r.byteCnt.toNat ≠ c.byteCap) : capCheck c r = r := by
  simp [capCheck, h]

theorem capCheck_at_cap {c : Config} {r : RxUnit} (h : r.state ≠ .complete) (hb : r.byteCnt.toNat = c.byteCap) :
    capCheck c r = giveUp .byteCap r := by
  simp [capCheck, h, hb]

/-- Everything the byte-cap check can do. -/
theorem capCheck_cases (c : Config) (r : RxUnit) :
    (capCheck c r = r ∧ (r.state = .complete ∨ r.byteCnt.toNat ≠ c.byteCap)) ∨
    (capCheck c r = giveUp .byteCap r ∧ r.state ≠ .complete ∧ r.byteCnt.toNat = c.byteCap) := by
  by_cases h : r.state ≠ .complete ∧ r.byteCnt.toNat = c.byteCap
  · exact .inr ⟨capCheck_at_cap h.1 h.2, h⟩
  · refine .inl ⟨by simp only [capCheck, h, if_false], ?_⟩
    by_cases hs : r.state = .complete
    · exact .inl hs
    · exact .inr fun hb => h ⟨hs, hb⟩

/-! ### The idle poll: only `wait_cnt`, `rx_state` and `rx_cause` can change -/

@[simp] theorem idlePoll_acc (r : RxUnit) : (idlePoll r).acc = r.acc := by unfold idlePoll; dsimp only; split <;> rfl
@[simp] theorem idlePoll_accLen (r : RxUnit) : (idlePoll r).accLen = r.accLen := by
  unfold idlePoll; dsimp only; split <;> rfl
@[simp] theorem idlePoll_byteCnt (r : RxUnit) : (idlePoll r).byteCnt = r.byteCnt := by
  unfold idlePoll; dsimp only; split <;> rfl
@[simp] theorem idlePoll_waitCnt (r : RxUnit) : (idlePoll r).waitCnt = r.waitCnt + 1 := by
  unfold idlePoll; dsimp only; split <;> rfl
@[simp] theorem idlePoll_waitLim (r : RxUnit) : (idlePoll r).waitLim = r.waitLim := by
  unfold idlePoll; dsimp only; split <;> rfl

theorem idlePoll_at_limit {r : RxUnit} (h : r.waitLim.toNat ≤ r.waitCnt.toNat + 1) :
    idlePoll r = giveUp .waitLimit { r with waitCnt := r.waitCnt + 1 } := by
  simp [idlePoll, h]

theorem idlePoll_below_limit {r : RxUnit} (h : r.waitCnt.toNat + 1 < r.waitLim.toNat) :
    idlePoll r = { r with waitCnt := r.waitCnt + 1 } := by
  have : ¬ r.waitLim.toNat ≤ r.waitCnt.toNat + 1 := by omega
  simp [idlePoll, this]

/-! ### The reference step -/

theorem rxStep_of_not_busy {c : Config} {r : RxUnit} (h : r.busy = false) (e : RxEvent) :
    rxStep c r e = match e with
      | .start n => startInvocation n r
      | .byte _ => r
      | .idle => r := by
  cases e <;> simp [rxStep, h]

theorem rxStep_start_of_busy {c : Config} {r : RxUnit} (h : r.busy = true) (n : Wait) :
    rxStep c r (.start n) = r := by simp [rxStep, h]

theorem rxStep_byte_of_busy {c : Config} {r : RxUnit} (h : r.busy = true) (b : Byte) :
    rxStep c r (.byte b) = byteStep c (byteArm c r.state b) r := by simp [rxStep, h]

theorem rxStep_idle_of_busy {c : Config} {r : RxUnit} (h : r.busy = true) : rxStep c r .idle = idlePoll r := by
  simp [rxStep, h]

/-- The arms leave the counters, the limit and the cause alone: only `rx_state`, `acc` and `acc_len` can change. -/
theorem byteArm_fields (c : Config) (S : RxState) (b : Byte) (r : RxUnit) :
    (byteArm c S b r).byteCnt = r.byteCnt ∧ (byteArm c S b r).waitCnt = r.waitCnt ∧
      (byteArm c S b r).waitLim = r.waitLim ∧ (byteArm c S b r).cause = r.cause := by
  cases S <;> simp only [byteArm] <;> (try split) <;> (try split) <;> simp

@[simp] theorem byteArm_byteCnt (c : Config) (S : RxState) (b : Byte) (r : RxUnit) :
    (byteArm c S b r).byteCnt = r.byteCnt := (byteArm_fields c S b r).1
@[simp] theorem byteArm_waitCnt (c : Config) (S : RxState) (b : Byte) (r : RxUnit) :
    (byteArm c S b r).waitCnt = r.waitCnt := (byteArm_fields c S b r).2.1
@[simp] theorem byteArm_waitLim (c : Config) (S : RxState) (b : Byte) (r : RxUnit) :
    (byteArm c S b r).waitLim = r.waitLim := (byteArm_fields c S b r).2.2.1
@[simp] theorem byteArm_cause (c : Config) (S : RxState) (b : Byte) (r : RxUnit) :
    (byteArm c S b r).cause = r.cause := (byteArm_fields c S b r).2.2.2

/-- A byte does not write `wait_lim`. -/
theorem rxStep_byte_waitLim (c : Config) (r : RxUnit) (b : Byte) : (rxStep c r (.byte b)).waitLim = r.waitLim := by
  unfold rxStep byteStep; dsimp only; split <;> simp

/-- An idle poll does not write `wait_lim`. -/
theorem rxStep_idle_waitLim (c : Config) (r : RxUnit) : (rxStep c r .idle).waitLim = r.waitLim := by
  unfold rxStep; dsimp only; split <;> simp

/-! ### Consuming and delivering a byte -/

/-- Everything that consuming a byte can do. -/
theorem consumeByte_cases (c : Config) (b : Byte) (s : State) :
    (consumeByte c b s = .next (s.consume (rxStep c s.rx (.byte b))) ∧
      (s.rx.appends c b = true → s.rx.hasRoom c = true)) ∨
    (consumeByte c b s = .fault .accOverflow ∧ s.rx.appends c b = true ∧ s.rx.hasRoom c = false) := by
  unfold consumeByte
  cases ha : s.rx.appends c b <;> cases hr : s.rx.hasRoom c <;> simp

theorem consumeByte_of_room {c : Config} {b : Byte} {s : State} (h : s.rx.accLen.toNat < accCap c) :
    consumeByte c b s = .next (s.consume (rxStep c s.rx (.byte b))) := by
  simp [consumeByte, RxUnit.hasRoom, h]

theorem deliverByte_of_not_busy {c : Config} {b : Byte} {s : State} (h : s.rx.busy = false) :
    deliverByte c b s = .next { s with wireIn := s.wireIn ++ [b] } := by
  simp [deliverByte, h]

theorem deliverByte_of_busy {c : Config} {b : Byte} {s : State} (h : s.rx.busy = true) :
    deliverByte c b s = consumeByte c (s.wireIn.headD b) { s with wireIn := s.wireIn ++ [b] } := by
  simp [deliverByte, h]

/-! ### The TX handshake -/

theorem acceptItem_eq (b : Byte) (t : TxUnit) (s : State) :
    acceptItem b t s =
      { s with tx := t, wireOut := s.wireOut ++ [b], host := { s.host with txReady := true, txErr := false } } := rfl

theorem rejectItem_eq (s : State) : rejectItem s = { s with host := { s.host with txReady := false, txErr := true } } :=
  rfl

theorem holdItem_eq (s : State) : holdItem s = { s with host := { s.host with txReady := false, txErr := false } } := rfl

/-! ### The decoded frame -/

@[simp] theorem RxUnit.frame_length (r : RxUnit) : r.frame.length = r.accLen.toNat := by simp [RxUnit.frame]

theorem RxUnit.frame_of_empty {r : RxUnit} (h : r.accLen = 0#6) : r.frame = [] := by simp [RxUnit.frame, h]

/-- `Append` appends one byte to the decoded frame. -/
theorem RxUnit.frame_append {r : RxUnit} (b : Byte) (hm : Memory.wf r.acc = true) (hl : r.accLen.toNat < 63) :
    (append b r).frame = r.frame ++ [b] := by
  have hlen : (r.accLen + 1#6).toNat = r.accLen.toNat + 1 := by
    rw [BitVec.toNat_add]; simp; omega
  have hread : ∀ a ∈ List.range r.accLen.toNat,
      Memory.read (Memory.write r.acc r.accLen.toNat b) a = Memory.read r.acc a := fun a ha =>
    Memory.read_write_of_ne (by have := List.mem_range.1 ha; omega) r.acc
  simp only [RxUnit.frame, append_acc, append_accLen]
  rw [show r.accLen + 1 = r.accLen + 1#6 from rfl, hlen, List.range_succ, List.map_append, List.map_congr_left hread]
  simp [Memory.read_write_same (low := 0) hm]

end Sys2Proof.Machine
end

