-- ==== Sys2Proof/Laws/Params.lean ====
section
/-! SUPPORT. The parameter values one by one, and the instance's markers and headers as plain conditions. -/

namespace Sys2Proof.Machine

@[simp] theorem dali_start : dali.start = 0x7C#8 := rfl
@[simp] theorem dali_stop : dali.stop = 0x7D#8 := rfl
@[simp] theorem dali_esc : dali.esc = 0x7E#8 := rfl
@[simp] theorem dali_byteCap : dali.byteCap = 40 := rfl
@[simp] theorem dali_accCap : accCap dali = 39 := rfl
@[simp] theorem dali_hDaliCommand : dali.hDaliCommand = 0x01#8 := rfl
@[simp] theorem dali_hDaliRcv1Bytes : dali.hDaliRcv1Bytes = 0x02#8 := rfl
@[simp] theorem dali_hDaliRcv2Bytes : dali.hDaliRcv2Bytes = 0x03#8 := rfl
@[simp] theorem dali_hTimeframeExpired : dali.hTimeframeExpired = 0x0A#8 := rfl
@[simp] theorem dali_hInvalidDaliFrame : dali.hInvalidDaliFrame = 0x0B#8 := rfl
@[simp] theorem dali_hEcho : dali.hEcho = 0x1E#8 := rfl
@[simp] theorem dali_waitReloadOnByte : dali.waitReloadOnByte = false := rfl

theorem dali_markersDistinct : dali.MarkersDistinct := by decide
theorem dali_headersDistinct : dali.HeadersDistinct := by decide
theorem dali_capFits : dali.CapFits := by decide

theorem isMarker_iff (c : Config) (b : Byte) :
    isMarker c b = true ↔ b = c.start ∨ b = c.stop ∨ b = c.esc := by
  simp [isMarker, or_assoc]

theorem not_isMarker_iff (c : Config) (b : Byte) :
    isMarker c b = false ↔ b ≠ c.start ∧ b ≠ c.stop ∧ b ≠ c.esc := by
  simp [isMarker, and_assoc]

end Sys2Proof.Machine
end

