-- ==== Sys2Proof/Laws/Exec.lean ====
section
/-! SUPPORT. What a meaning can do, said once: the inversion lemmas of exec that the whole-machine statements rest on. -/

namespace Sys2Proof.Machine

theorem State.queue_of_offers {s : State} {S : RxState} {b : Byte} (hs : s.rx.state = S) (ho : s.offersByte b = true) :
    s.wireIn ++ s.deliveredFor S b true = b :: s.wireIn.tail := by
  simp only [State.offersByte, beq_iff_eq] at ho
  cases hw : s.wireIn with
  | nil => simp [State.deliveredFor, hs, hw]
  | cons x rest => simp_all [State.deliveredFor]

theorem State.deliveredFor_of_not {s : State} {S : RxState} {b : Byte}
    (h : ¬ (s.rx.state = S ∧ s.offersByte b = true)) : s.deliveredFor S b true = [] := by
  unfold State.deliveredFor
  rw [if_neg]
  rintro ⟨hs, hw, -⟩
  exact h ⟨hs, by simp [State.offersByte, hw]⟩

/-- Everything an operation can do to the RX unit and the wire source: no byte is taken, and the queue is as delivered;
or, only while busy, the queue's oldest byte is taken by the reference step, and appended only inside the accumulator. -/
theorem exec_rx_cases {i : Instr} {s t : State} (h : exec i s = .next t) :
    (t.wireIn = s.wireIn ++ i.delivers s ∧
      (t.rx = s.rx ∨ (∃ n, i = .rxStart n ∧ t.rx = rxStep dali s.rx (.start n)) ∨
        (i = .rxIdle ∧ t.rx = rxStep dali s.rx .idle))) ∨
    (∃ b, s.rx.busy = true ∧ s.wireIn ++ i.delivers s = b :: t.wireIn ∧ t.rx = rxStep dali s.rx (.byte b) ∧
      (s.rx.appends dali b = true → s.rx.hasRoom dali = true)) := by
  have same : i.delivers s = [] → t.rx = s.rx → t.wireIn = s.wireIn →
      t.wireIn = s.wireIn ++ i.delivers s ∧
      (t.rx = s.rx ∨ (∃ n, i = .rxStart n ∧ t.rx = rxStep dali s.rx (.start n)) ∨
        (i = .rxIdle ∧ t.rx = rxStep dali s.rx .idle)) :=
    fun hd hr hw => ⟨by rw [hd, List.append_nil, hw], .inl hr⟩
  have wire : ∀ b, deliverByte dali b s = .next t →
      (t.wireIn = s.wireIn ++ [b] ∧ t.rx = s.rx) ∨
      ∃ b', s.rx.busy = true ∧ s.wireIn ++ [b] = b' :: t.wireIn ∧ t.rx = rxStep dali s.rx (.byte b') ∧
        (s.rx.appends dali b' = true → s.rx.hasRoom dali = true) := by
    intro b hb
    cases hbusy : s.rx.busy with
    | false =>
      rw [deliverByte_of_not_busy hbusy] at hb
      cases hb
      exact .inl ⟨rfl, rfl⟩
    | true =>
      rw [deliverByte_of_busy hbusy] at hb
      obtain ⟨he, hroom⟩ | ⟨he, -, -⟩ := consumeByte_cases dali (s.wireIn.headD b) { s with wireIn := s.wireIn ++ [b] }
      · rw [he] at hb
        cases hb
        refine .inr ⟨_, rfl, ?_, rfl, hroom⟩
        cases hw : s.wireIn <;> simp [State.consume]
      · rw [he] at hb
        cases hb
  have arm : ∀ (S : RxState) (b : Byte), s.rx.state = S → s.offersByte b = true →
      i.delivers s = s.deliveredFor S b true →
      s.rx.busy = true → (s.rx.appends dali b = true → s.rx.hasRoom dali = true) →
      t = s.consume (byteStep dali (byteArm dali s.rx.state b) s.rx) →
      ∃ b, s.rx.busy = true ∧ s.wireIn ++ i.delivers s = b :: t.wireIn ∧ t.rx = rxStep dali s.rx (.byte b) ∧
        (s.rx.appends dali b = true → s.rx.hasRoom dali = true) := by
    intro S b hs ho hd hbusy hroom ht
    refine ⟨b, hbusy, ?_, by rw [ht, rxStep_byte_of_busy hbusy]; rfl, hroom⟩
    rw [hd, State.queue_of_offers hs ho, ht]
    rfl
  cases i with
  | wireStart | wireStop | wireEsc | wireLiteral =>
    obtain ⟨hw, hr⟩ | hc := wire _ h
    · exact .inl ⟨hw, .inl hr⟩
    · exact .inr hc
  | msgDaliCommand | msgDaliRcv1Bytes | msgDaliRcv2Bytes | msgTimeframeExpired | msgInvalidDaliFrame | msgEcho =>
    left
    simp only [exec, execMsgDaliCommand, execMsgDaliRcv1Bytes, execMsgDaliRcv2Bytes, execMsgTimeframeExpired,
      execMsgInvalidDaliFrame, execMsgEcho, Host.Outcome.next.injEq] at h
    rw [← h] at same ⊢
    refine same rfl ?_ ?_ <;> split <;> rfl
  | msgUnknown x =>
    left
    simp only [exec, execMsgUnknown, Host.Outcome.next.injEq] at h
    rw [← h] at same ⊢
    refine same rfl ?_ ?_ <;> split <;> rfl
  | status v => left; cases h; exact same rfl rfl rfl
  | txBegin x | txDrain | txEnd x | txReserved x =>
    left
    simp only [exec, execTxBegin, execTxDrain, execTxEnd, execTxReserved] at h
    split at h <;> cases h <;> exact same rfl rfl rfl
  | txDataLiteral b | txDataMarker b =>
    left
    simp only [exec, execTxDataLiteral, execTxDataMarker] at h
    split at h
    · cases h; exact same rfl rfl rfl
    · split at h <;> cases h <;> exact same rfl rfl rfl
  | rxStart n => cases h; exact .inl ⟨(List.append_nil _).symm, .inr (.inl ⟨n, rfl, rfl⟩)⟩
  | rxIdle => cases h; exact .inl ⟨(List.append_nil _).symm, .inr (.inr ⟨rfl, rfl⟩)⟩
  | rxNone => cases h; exact .inl (same rfl rfl rfl)
  | rxRead x => cases h; exact .inl (same rfl rfl rfl)
  | rxByteSeekingStart =>
    simp only [exec, execRxByteSeekingStart] at h
    split at h
    · rename_i hs
      refine .inr (arm .seeking dali.start hs.1 hs.2 rfl
        (by simp [RxUnit.busy, hs.1]) (by simp [RxUnit.appends, hs.1]) ?_)
      cases h; simp [byteArm, hs.1]
    · rename_i hs
      cases h
      exact .inl (same (State.deliveredFor_of_not hs) rfl rfl)
  | rxByteSeekingEsc =>
    simp only [exec, execRxByteSeekingEsc] at h
    split at h
    · rename_i hs
      refine .inr (arm .seeking dali.esc hs.1 hs.2 rfl
        (by simp [RxUnit.busy, hs.1]) (by simp [RxUnit.appends, hs.1]) ?_)
      cases h; simp [byteArm, hs.1]
    · rename_i hs
      cases h
      exact .inl (same (State.deliveredFor_of_not hs) rfl rfl)
  | rxByteSeekingOther b =>
    have wf : b ≠ dali.start ∧ b ≠ dali.esc → (Instr.rxByteSeekingOther b).wf = true := by
      rintro ⟨h1, h2⟩
      simp only [Instr.wf, beq_eq_false_iff_ne.2 h1, beq_eq_false_iff_ne.2 h2, Bool.not_false, Bool.and_self]
    simp only [exec, execRxByteSeekingOther] at h
    split at h
    · rename_i hs
      refine .inr (arm .seeking b hs.1 hs.2.2 (by simp only [Instr.delivers, wf hs.2.1])
        (by simp [RxUnit.busy, hs.1]) (by simp [RxUnit.appends, hs.1]) ?_)
      cases h; simp only [byteArm, hs.1, hs.2.1.1, hs.2.1.2, if_false]
    · rename_i hs
      cases h
      refine .inl (same ?_ rfl rfl)
      simp only [Instr.delivers, State.deliveredFor, ite_eq_right_iff, and_imp]
      intro h1 h2 h3
      simp only [Instr.wf, Bool.and_eq_true, Bool.not_eq_true', beq_eq_false_iff_ne] at h3
      exact absurd ⟨h1, h3, by simp [State.offersByte, h2]⟩ hs
  | rxByteEscSeek b =>
    simp only [exec, execRxByteEscSeek] at h
    split at h
    · rename_i hs
      refine .inr (arm .escSeek b hs.1 hs.2 rfl (by simp [RxUnit.busy, hs.1]) (by simp [RxUnit.appends, hs.1]) ?_)
      cases h; simp [byteArm, hs.1]
    · rename_i hs
      cases h
      exact .inl (same (State.deliveredFor_of_not hs) rfl rfl)
  | rxByteInframeStop =>
    simp only [exec, execRxByteInframeStop] at h
    split at h
    · rename_i hs
      refine .inr (arm .inframe dali.stop hs.1 hs.2 rfl
        (by simp [RxUnit.busy, hs.1]) (by simp [RxUnit.appends, hs.1]) ?_)
      cases h; simp [byteArm, hs.1]
    · rename_i hs
      cases h
      exact .inl (same (State.deliveredFor_of_not hs) rfl rfl)
  | rxByteInframeEsc =>
    simp only [exec, execRxByteInframeEsc] at h
    split at h
    · rename_i hs
      refine .inr (arm .inframe dali.esc hs.1 hs.2 rfl
        (by simp [RxUnit.busy, hs.1]) (by simp [RxUnit.appends, hs.1]) ?_)
      cases h; simp [byteArm, hs.1]
    · rename_i hs
      cases h
      exact .inl (same (State.deliveredFor_of_not hs) rfl rfl)
  | rxByteInframeOther b =>
    have wf : b ≠ dali.stop ∧ b ≠ dali.esc → (Instr.rxByteInframeOther b).wf = true := by
      rintro ⟨h1, h2⟩
      simp only [Instr.wf, beq_eq_false_iff_ne.2 h1, beq_eq_false_iff_ne.2 h2, Bool.not_false, Bool.and_self]
    simp only [exec, execRxByteInframeOther] at h
    split at h
    · rename_i hs
      split at h
      · rename_i hroom
        refine .inr (arm .inframe b hs.1 hs.2.2 (by simp only [Instr.delivers, wf hs.2.1])
          (by simp [RxUnit.busy, hs.1]) (fun _ => hroom) ?_)
        cases h; simp only [byteArm, hs.1, hs.2.1.1, hs.2.1.2, if_false]
      · cases h
    · rename_i hs
      cases h
      refine .inl (same ?_ rfl rfl)
      simp only [Instr.delivers, State.deliveredFor, ite_eq_right_iff, and_imp]
      intro h1 h2 h3
      simp only [Instr.wf, Bool.and_eq_true, Bool.not_eq_true', beq_eq_false_iff_ne] at h3
      exact absurd ⟨h1, h3, by simp [State.offersByte, h2]⟩ hs
  | rxByteEscFrame b =>
    simp only [exec, execRxByteEscFrame] at h
    split at h
    · rename_i hs
      split at h
      · rename_i hroom
        refine .inr (arm .escFrame b hs.1 hs.2 rfl (by simp [RxUnit.busy, hs.1]) (fun _ => hroom) ?_)
        cases h; simp [byteArm, hs.1]
      · cases h
    · rename_i hs
      cases h
      exact .inl (same (State.deliveredFor_of_not hs) rfl rfl)

/-- The row that the present state and the byte's class select: with the byte offered it consumes it, and with another
byte queued before it nothing happens. -/
theorem exec_rxByteRow (b : Byte) (s : State) (hb : s.rx.busy = true) :
    ∃ i, decodeRxByte s.rx.state.code b = i ∧
      exec i s = if s.offersByte b then consumeByte dali b s else .next s := by
  have hc : consumeByte dali b s = if s.rx.appends dali b && !s.rx.hasRoom dali then .fault .accOverflow
      else .next (s.consume (byteStep dali (byteArm dali s.rx.state b) s.rx)) := by
    simp only [consumeByte, rxStep_byte_of_busy hb]
  rw [hc]
  refine ⟨_, rfl, ?_⟩
  by_cases ho : s.offersByte b
  · rw [if_pos ho]
    obtain h | h | h | h := (RxUnit.busy_iff _).1 hb
    · by_cases h1 : b = dali.start
      · subst h1
        simp only [dali_start] at ho
        simp [h, RxState.code, decodeRxByte, exec, execRxByteSeekingStart, byteArm, RxUnit.appends, ho]
      · by_cases h2 : b = dali.esc
        · subst h2
          simp only [dali_esc] at ho
          simp [h, RxState.code, decodeRxByte, exec, execRxByteSeekingEsc, byteArm, RxUnit.appends, ho]
        · simp only [h, RxState.code, decodeRxByte, h1, h2, if_true, if_false, exec, execRxByteSeekingOther, ho, byteArm,
            ne_eq, not_false_eq_true, and_self, RxUnit.appends, Bool.false_and, Bool.false_eq_true]
    · by_cases h1 : b = dali.stop
      · subst h1
        simp only [dali_stop] at ho
        simp [h, RxState.code, decodeRxByte, exec, execRxByteInframeStop, byteArm, RxUnit.appends, ho]
      · by_cases h2 : b = dali.esc
        · subst h2
          simp only [dali_esc] at ho
          simp [h, RxState.code, decodeRxByte, exec, execRxByteInframeEsc, byteArm, RxUnit.appends, ho]
        · simp at h1 h2
          cases hr : s.rx.hasRoom dali <;>
            simp [h, RxState.code, decodeRxByte, h1, h2, exec, execRxByteInframeOther, byteArm, RxUnit.appends, hr, ho]
    · simp [h, RxState.code, decodeRxByte, exec, execRxByteEscSeek, byteArm, RxUnit.appends, ho]
    · cases hr : s.rx.hasRoom dali <;>
        simp [h, RxState.code, decodeRxByte, exec, execRxByteEscFrame, byteArm, RxUnit.appends, hr, ho]
  · rw [if_neg ho]
    obtain h | h | h | h := (RxUnit.busy_iff _).1 hb
    · by_cases h1 : b = dali.start
      · subst h1
        simp only [dali_start] at ho
        simp [h, RxState.code, decodeRxByte, exec, execRxByteSeekingStart, ho]
      · by_cases h2 : b = dali.esc
        · subst h2
          simp only [dali_esc] at ho
          simp [h, RxState.code, decodeRxByte, exec, execRxByteSeekingEsc, ho]
        · simp only [h, RxState.code, decodeRxByte, h1, h2, if_true, if_false, exec,
          execRxByteSeekingOther, ho, and_false, Bool.false_eq_true]
    · by_cases h1 : b = dali.stop
      · subst h1
        simp only [dali_stop] at ho
        simp [h, RxState.code, decodeRxByte, exec, execRxByteInframeStop, ho]
      · by_cases h2 : b = dali.esc
        · subst h2
          simp only [dali_esc] at ho
          simp [h, RxState.code, decodeRxByte, exec, execRxByteInframeEsc, ho]
        · simp at h1 h2
          simp [h, RxState.code, decodeRxByte, h1, h2, exec, execRxByteInframeOther, ho]
    · simp [h, RxState.code, decodeRxByte, exec, execRxByteEscSeek, ho]
    · simp [h, RxState.code, decodeRxByte, exec, execRxByteEscFrame, ho]

end Sys2Proof.Machine
end

