-- ==== Sys2Proof/Laws/PerInstr.lean ====
section
/-! SUPPORT. Facts about every instruction, one lemma per constructor. -/

namespace Sys2Proof.Laws.EncodeIsAccepted

/-- The decoder does not refuse the encoder's word, whatever the operand. -/
def Statement (i : Instr) : Prop := ∃ j, decode (encode i) = .ok j

/-- A TX item beside a sequencer code that occurs. -/
theorem of_txWord (q k : BitVec 2) (b : Byte) (hq : q ≠ 3#2) : ∃ j, decode (txWord q k b) = .ok j := by
  rw [decode_txWord]
  unfold decodeTx
  rw [if_neg hq]
  repeat' split
  all_goals exact ⟨_, rfl⟩

/-- An RX event beside a sequencer code that occurs. -/
theorem of_rxWord (q v : BitVec 3) (b : Byte) (hq : q ≠ 7#3) : ∃ j, decode (rxWord q v b) = .ok j := by
  rw [decode_rxWord]
  unfold decodeRx
  rw [if_neg hq]
  repeat' split
  all_goals exact ⟨_, rfl⟩

theorem wireStart : Statement .wireStart := ⟨_, rfl⟩
theorem wireStop : Statement .wireStop := ⟨_, rfl⟩
theorem wireEsc : Statement .wireEsc := ⟨_, rfl⟩
theorem wireLiteral (b : Byte) : Statement (.wireLiteral b) := ⟨_, rfl⟩
theorem msgDaliCommand : Statement .msgDaliCommand := ⟨_, rfl⟩
theorem msgDaliRcv1Bytes : Statement .msgDaliRcv1Bytes := ⟨_, rfl⟩
theorem msgDaliRcv2Bytes : Statement .msgDaliRcv2Bytes := ⟨_, rfl⟩
theorem msgTimeframeExpired : Statement .msgTimeframeExpired := ⟨_, rfl⟩
theorem msgInvalidDaliFrame : Statement .msgInvalidDaliFrame := ⟨_, rfl⟩
theorem msgEcho : Statement .msgEcho := ⟨_, rfl⟩
theorem msgUnknown (h : Byte) : Statement (.msgUnknown h) := ⟨_, rfl⟩
theorem status (v : Byte) : Statement (.status v) := ⟨_, rfl⟩
theorem txBegin (x : Byte) : Statement (.txBegin x) := of_txWord _ _ _ (by decide)
theorem txDataLiteral (b : Byte) : Statement (.txDataLiteral b) := of_txWord _ _ _ (by decide)
theorem txDataMarker (b : Byte) : Statement (.txDataMarker b) := of_txWord _ _ _ (by decide)
theorem txDrain : Statement .txDrain := of_txWord _ _ _ (by decide)
theorem txEnd (x : Byte) : Statement (.txEnd x) := of_txWord _ _ _ (by decide)
theorem txReserved (x : Byte) : Statement (.txReserved x) := of_txWord _ _ _ (by decide)
theorem rxStart (n : Wait) : Statement (.rxStart n) := of_rxWord _ _ _ (by decide)
theorem rxByteSeekingStart : Statement .rxByteSeekingStart := of_rxWord _ _ _ (by decide)
theorem rxByteSeekingEsc : Statement .rxByteSeekingEsc := of_rxWord _ _ _ (by decide)
theorem rxByteSeekingOther (b : Byte) : Statement (.rxByteSeekingOther b) := of_rxWord _ _ _ (by decide)
theorem rxByteEscSeek (b : Byte) : Statement (.rxByteEscSeek b) := of_rxWord _ _ _ (by decide)
theorem rxByteInframeStop : Statement .rxByteInframeStop := of_rxWord _ _ _ (by decide)
theorem rxByteInframeEsc : Statement .rxByteInframeEsc := of_rxWord _ _ _ (by decide)
theorem rxByteInframeOther (b : Byte) : Statement (.rxByteInframeOther b) := of_rxWord _ _ _ (by decide)
theorem rxByteEscFrame (b : Byte) : Statement (.rxByteEscFrame b) := of_rxWord _ _ _ (by decide)
theorem rxIdle : Statement .rxIdle := of_rxWord _ _ _ (by decide)
theorem rxNone : Statement .rxNone := of_rxWord _ _ _ (by decide)
theorem rxRead (i : Cnt) : Statement (.rxRead i) := ⟨_, rfl⟩

end Sys2Proof.Laws.EncodeIsAccepted
end

