-- ==== Sys2Proof/Laws/Step.lean ====
section
/-! SUPPORT. Runs one step at a time, and which operation each offer selects. -/

namespace Sys2Proof.Machine

@[simp] theorem runSteps_zero (s : State) : runSteps 0 s = .next s := rfl

theorem runSteps_next {s t : State} (k : Nat) (h : step s = .next t) : runSteps (k + 1) s = runSteps k t := by
  simp only [runSteps, h]

theorem runSteps_fault {s : State} {f : Fault} (k : Nat) (h : step s = .fault f) :
    runSteps (k + 1) s = .fault f := by
  simp only [runSteps, h]

theorem runSteps_refused {s : State} {r : Refusal} (k : Nat) (h : step s = .refused r) :
    runSteps (k + 1) s = .refused r := by
  simp only [runSteps, h]

/-- A run of `j` steps and then `k` more. -/
theorem runSteps_add {s t : State} (j k : Nat) (h : runSteps j s = .next t) :
    runSteps (j + k) s = runSteps k t := by
  induction j generalizing s with
  | zero => cases h; rw [Nat.zero_add]
  | succ j ih =>
    rw [Nat.succ_add]
    cases hs : step s with
    | next u => rw [runSteps_next _ hs] at h ⊢; exact ih h
    | fault f => rw [runSteps_fault _ hs] at h; cases h
    | refused f => rw [runSteps_refused _ hs] at h; cases h

/-- It is the host's run of this machine. -/
theorem runSteps_eq_host (k : Nat) (s : State) : runSteps k s = Host.Core.run core k s := by
  induction k generalizing s with
  | zero => rfl
  | succ k ih =>
    have e := Host.Core.run.eq_2 core s k
    cases hs : step s with
    | next t =>
      rw [show core.step s = .next t from hs] at e
      rw [runSteps_next k hs, ih t]
      exact e.symm
    | fault f =>
      rw [show core.step s = .fault f from hs] at e
      rw [runSteps_fault k hs]
      exact e.symm
    | refused f =>
      rw [show core.step s = .refused f from hs] at e
      rw [runSteps_refused k hs]
      exact e.symm

theorem State.offer_of_cons {s : State} {o : Offer} {rest : List Offer} (h : s.script = o :: rest) : s.offer = o := by
  simp [State.offer, h]

theorem State.advance_of_cons {s : State} {o : Offer} {rest : List Offer} (h : s.script = o :: rest) :
    s.advance = { s with script := rest } := by
  simp [State.advance, h]

/-- A step whose fetch word decodes runs that operation. -/
theorem step_of_word {s : State} {w : FetchWord} {i : Instr} (hf : fetch s = .word w) (hd : decode w = .ok i) :
    step s = exec i s.advance := by
  simp only [step, hf, hd]

/-- What is delivered does not depend on the script. -/
theorem delivers_advance (i : Instr) (s : State) : i.delivers s.advance = i.delivers s := by cases i <;> rfl

/-- A TX cycle fetches no reset and no flush. -/
theorem fetchTx_ne (t : TxUnit) (i : TxIn) : fetchTx t i ≠ .rst ∧ fetchTx t i ≠ .flush := by
  unfold fetchTx
  cases t.state <;> dsimp only <;> split <;> exact ⟨Fetched.noConfusion, Fetched.noConfusion⟩

/-- Everything a step can do to the RX registers and the wire source: a reset, a flush, nothing, or one operation. -/
theorem step_cases {s t : State} (h : step s = .next t) :
    (s.offer = .rst ∧ t.rx = s.rx.resetFrom ∧ t.wireIn = s.wireIn ∧ s.delivered = []) ∨
    (s.offer = .flush ∧ t.rx = s.rx ∧ t.wireIn = []) ∨
    (t.rx = s.rx ∧ t.wireIn = s.wireIn ∧ s.delivered = []) ∨
    ∃ w i, fetch s = .word w ∧ decode w = .ok i ∧ exec i s.advance = .next t ∧ s.delivered = i.delivers s := by
  have only : (fetch s = .rst → s.offer = .rst) ∧ (fetch s = .flush → s.offer = .flush) := by
    unfold fetch
    cases s.offer with
    | tx i => exact ⟨fun hf => absurd hf (fetchTx_ne _ _).1, fun hf => absurd hf (fetchTx_ne _ _).2⟩
    | rst => exact ⟨fun _ => rfl, fun hf => Fetched.noConfusion hf⟩
    | flush => exact ⟨fun hf => Fetched.noConfusion hf, fun _ => rfl⟩
    | rx | wire | read | parse | status | event =>
      exact ⟨fun hf => Fetched.noConfusion hf, fun hf => Fetched.noConfusion hf⟩
  cases hf : fetch s with
  | word w =>
    cases hd : decode w with
    | ok i =>
      simp only [step, hf, hd] at h
      exact .inr (.inr (.inr ⟨w, i, rfl, hd, h, by simp only [State.delivered, hf, hd]⟩))
    | error r => simp only [step, hf, hd] at h; cases h
  | hold ready =>
    simp only [step, hf] at h
    cases h
    exact .inr (.inr (.inl ⟨rfl, rfl, by simp only [State.delivered, hf]⟩))
  | rst =>
    simp only [step, hf] at h
    cases h
    exact .inl ⟨only.1 hf, rfl, rfl, by simp only [State.delivered, hf]⟩
  | flush =>
    simp only [step, hf] at h
    cases h
    exact .inr (.inl ⟨only.2 hf, rfl, rfl⟩)

/-- A step on a delivered byte runs the row of the byte's class. -/
theorem step_wire {s : State} {b : Byte} (h : s.offer = .wire b) : step s = exec (decodeWire b) s.advance :=
  step_of_word (by simp only [fetch, h]) (decode_wireWord b)

/-- Every row of the wire class is the delivery of its byte. -/
theorem exec_decodeWire (b : Byte) (s : State) : exec (decodeWire b) s = deliverByte dali b s := by
  unfold decodeWire
  split
  · rename_i h; subst h; rfl
  · split
    · rename_i h; subst h; rfl
    · split
      · rename_i h; subst h; rfl
      · rfl

/-- A step on a read of the accumulator. -/
theorem step_read {s : State} {i : Cnt} (h : s.offer = .read i) : step s = exec (.rxRead i) s.advance :=
  step_of_word (by simp only [fetch, h]) (decode_readWord i)

/-- A step on a status byte. -/
theorem step_status {s : State} {v : Byte} (h : s.offer = .status v) : step s = exec (.status v) s.advance :=
  step_of_word (by simp only [fetch, h]) (decode_statusWord v)

/-- A step on the parser's outputs. -/
theorem step_parse {s : State} (h : s.offer = .parse) :
    step s = exec (decodeHeader (guardedRead s.rx.frame 0)) s.advance :=
  step_of_word (by simp only [fetch, h]) (decode_headerWord _)

end Sys2Proof.Machine
end

