-- ==== Sys2Proof/Tests/Slice0.lean ====
section
/-! SUPPORT. The model's own tests: the WellFormed smoke, decoding of words written out from the spec's encodings,
single steps of the spec's vectors (95_test_vectors.md), and a witness for the hypotheses of each statement. -/

namespace Sys2Proof.Tests

open Sys2Proof Sys2Proof.Machine

/-- The next state of an outcome, if it is one. -/
def nextOf (o : Host.Outcome State Fault Refusal) : Option State :=
  match o with
  | .next s => some s
  | .fault _ => none
  | .refused _ => none

/-- The instruction a word decodes to, if it is one. -/
def instrOf (r : Except Reject Instr) : Option Instr :=
  match r with
  | .ok i => some i
  | .error _ => none

/-- Why a word is rejected, if it is. -/
def rejectOf (r : Except Reject Instr) : Option Reject :=
  match r with
  | .ok _ => none
  | .error e => some e

/-- The TX unit in a given state and hold byte. -/
def txAt (S : TxState) (h : Byte) : State := { State.reset with tx := ⟨S, h⟩ }

/-- An accumulator that holds these bytes, none of them 0x00. -/
def accOf (bs : List Byte) : Memory := (List.range bs.length).zip bs

/-- RX registers: state, frame, `byte_cnt`, `wait_cnt`, `wait_lim`, cause. -/
def rxRegs (S : RxState) (f : List Byte) (b : Cnt) (w l : Wait) (k : Cause) : RxUnit :=
  ⟨S, accOf f, BitVec.ofNat 6 f.length, b, w, l, k⟩

/-- The RX unit in a given state, the rest as after reset. -/
def rxAt (S : RxState) (f : List Byte) (b : Cnt) (w : Wait) : State :=
  { State.reset with rx := rxRegs S f b w 60#8 .none }

/-- A finished invocation. -/
def finished : State := rxAt .complete [0x1E#8, 0x3C#8] 4#6 0#8

/-- The same with these bytes in the wire source's queue. -/
def queued (s : State) (bs : List Byte) : State := { s with wireIn := bs }

/-- 38 bytes 0x11. -/
def ones38 : List Byte := List.replicate 38 0x11#8

/-! ### WellFormed: an ill-formed term for each check, and the decoder's rejections by name -/

theorem test_wf_refuses :
    [Instr.wireLiteral 0x7C#8, .wireLiteral 0x7D#8, .wireLiteral 0x7E#8, .msgUnknown 0x01#8, .msgUnknown 0x1E#8,
      .txDataLiteral 0x7D#8, .txDataMarker 0x41#8, .rxByteSeekingOther 0x7C#8, .rxByteSeekingOther 0x7E#8,
      .rxByteInframeOther 0x7D#8, .rxByteInframeOther 0x7E#8].all (fun i => !i.wf) = true := by decide

theorem test_wf_accepts :
    [Instr.wireLiteral 0x7F#8, .msgUnknown 0x00#8, .txDataLiteral 0x7B#8, .txDataMarker 0x7E#8,
      .rxByteSeekingOther 0x7D#8, .rxByteInframeOther 0x7C#8].all Instr.wf = true := by decide

theorem test_decode_rejects :
    rejectOf (decode (.txItem 3#2 0x100#10)) = some .txStateCode ∧
    rejectOf (decode (.rxEvent 7#3 0x400#11)) = some .rxStateCode := by decide

/-- R122, R137: beside a sequencer that is not busy, a byte or a tick is no event. -/
theorem test_decode_not_busy :
    instrOf (decode (.rxEvent 0#3 0b01001111100#11)) = some .rxNone ∧
    instrOf (decode (.rxEvent 5#3 0b01001111100#11)) = some .rxNone ∧
    ((nextOf (exec .rxIdle finished)).map fun t => t.rx) = some finished.rx := by decide

/-! ### Decoding: words written out bit by bit (R70, R75, R82, R136, R171) -/

theorem test_decode_wire :
    instrOf (decode (.wire 0b01111100#8)) = some .wireStart ∧
    instrOf (decode (.wire 0b01111101#8)) = some .wireStop ∧
    instrOf (decode (.wire 0b01111110#8)) = some .wireEsc ∧
    instrOf (decode (.wire 0b01111011#8)) = some (.wireLiteral 0x7B#8) ∧
    instrOf (decode (.wire 0b01111111#8)) = some (.wireLiteral 0x7F#8) := by decide

theorem test_decode_msg :
    instrOf (decode (.header 0b00000001#8)) = some .msgDaliCommand ∧
    instrOf (decode (.header 0b00000010#8)) = some .msgDaliRcv1Bytes ∧
    instrOf (decode (.header 0b00000011#8)) = some .msgDaliRcv2Bytes ∧
    instrOf (decode (.header 0b00001010#8)) = some .msgTimeframeExpired ∧
    instrOf (decode (.header 0b00001011#8)) = some .msgInvalidDaliFrame ∧
    instrOf (decode (.header 0b00011110#8)) = some .msgEcho ∧
    instrOf (decode (.header 0b00000100#8)) = some (.msgUnknown 0x04#8) ∧
    instrOf (decode (.status 0b10000000#8)) = some (.status 0x80#8) := by decide

theorem test_decode_tx :
    instrOf (decode (.txItem 0#2 0b0110101010#10)) = some (.txBegin 0xAA#8) ∧
    instrOf (decode (.txItem 1#2 0b0000111100#10)) = some (.txDataLiteral 0x3C#8) ∧
    instrOf (decode (.txItem 1#2 0b0001111101#10)) = some (.txDataMarker 0x7D#8) ∧
    instrOf (decode (.txItem 2#2 0b1000000000#10)) = some .txDrain ∧
    instrOf (decode (.txItem 1#2 0b1000000001#10)) = some (.txEnd 0x01#8) ∧
    instrOf (decode (.txItem 1#2 0b1100000000#10)) = some (.txReserved 0x00#8) := by decide

theorem test_decode_rx :
    instrOf (decode (.rxEvent 0#3 0b10000111100#11)) = some (.rxStart 60#8) ∧
    instrOf (decode (.rxEvent 1#3 0b01001111100#11)) = some .rxByteSeekingStart ∧
    instrOf (decode (.rxEvent 1#3 0b01001111110#11)) = some .rxByteSeekingEsc ∧
    instrOf (decode (.rxEvent 1#3 0b01101111101#11)) = some (.rxByteSeekingOther 0x7D#8) ∧
    instrOf (decode (.rxEvent 3#3 0b01001111100#11)) = some (.rxByteEscSeek 0x7C#8) ∧
    instrOf (decode (.rxEvent 2#3 0b01001111101#11)) = some .rxByteInframeStop ∧
    instrOf (decode (.rxEvent 2#3 0b01001111110#11)) = some .rxByteInframeEsc ∧
    instrOf (decode (.rxEvent 2#3 0b01001111100#11)) = some (.rxByteInframeOther 0x7C#8) ∧
    instrOf (decode (.rxEvent 4#3 0b01001111101#11)) = some (.rxByteEscFrame 0x7D#8) ∧
    instrOf (decode (.rxEvent 4#3 0b00100000000#11)) = some .rxIdle ∧
    instrOf (decode (.rxEvent 6#3 0b00000000000#11)) = some .rxNone ∧
    instrOf (decode (.readPort 0b111111#6)) = some (.rxRead 63#6) := by decide

/-- A number of the opcode table presented to the machine right after reset is the instruction the step runs. -/
theorem test_fetch_word_runs :
    ((nextOf (step (State.reset.withFetchWord 16 0b0100000000))).map fun t => (t.tx.state, t.wireOut)) =
      some (.opened, [0x7C#8]) ∧
    ((nextOf (step (State.reset.withFetchWord 8 0x7C))).map fun t => t.wireIn) = some [0x7C#8] ∧
    ((nextOf (step (State.reset.withFetchWord 8 0x1E))).map fun t => t.host.msg.kind) = some .echo := by decide

/-! ### Single steps: vectors V-TX-20 to V-TX-29 -/

/-- V-TX-22: the marker form emits the escape marker and holds the byte. -/
theorem test_tx_marker :
    ((nextOf (exec (.txDataMarker 0x7D#8) (txAt .opened 0x00#8))).map fun t => (t.tx, t.wireOut)) =
      some (⟨.esc2, 0x7D#8⟩, [0x7E#8]) := by decide

/-- V-TX-23: the byte owed is emitted, the item offered is not accepted. -/
theorem test_tx_drain :
    ((nextOf (step { txAt .esc2 0x7D#8 with script := [.tx ⟨true, 0b10#2, 0x00#8, true⟩] })).map
      fun t => (t.tx, t.wireOut, t.host.txReady)) = some (⟨.opened, 0x7D#8⟩, [0x7D#8], false) := by decide

/-- V-TX-24: the stop marker, `tx_hold` kept. -/
theorem test_tx_end :
    ((nextOf (exec (.txEnd 0x00#8) (txAt .opened 0x7D#8))).map fun t => (t.tx, t.wireOut)) =
      some (⟨.idle, 0x7D#8⟩, [0x7D#8]) := by decide

/-- V-TX-25: data outside a frame is illegal. -/
theorem test_tx_illegal_data :
    ((nextOf (step { txAt .idle 0x00#8 with script := [.tx ⟨true, 0b00#2, 0x11#8, true⟩] })).map
      fun t => (t.tx, t.wireOut, t.host.txReady, t.host.txErr)) = some (⟨.idle, 0x00#8⟩, [], false, true) := by decide

/-- V-TX-28: the reserved kind is illegal. -/
theorem test_tx_reserved :
    ((nextOf (exec (.txReserved 0x00#8) (txAt .opened 0x00#8))).map fun t => (t.tx, t.wireOut, t.host.txErr)) =
      some (⟨.opened, 0x00#8⟩, [], true) := by decide

/-- V-TX-29: a legal item waits for the wire sink and is no error. -/
theorem test_tx_waits :
    ((nextOf (step { txAt .opened 0x00#8 with script := [.tx ⟨true, 0b00#2, 0x41#8, false⟩] })).map
      fun t => (t.tx, t.wireOut, t.host.txReady, t.host.txErr)) = some (⟨.opened, 0x00#8⟩, [], false, false) := by
  decide

/-- V-TX-7 and V-TX-9. -/
theorem test_stuff :
    stuff dali [0x7C#8, 0x7D#8, 0x7E#8] = [0x7C#8, 0x7E#8, 0x7C#8, 0x7E#8, 0x7D#8, 0x7E#8, 0x7E#8, 0x7D#8] ∧
    stuff dali (buildCommand dali 0xFF#8 0x7D#8 0x01#8 0x00#8 true) =
      [0x7C#8, 0x01#8, 0xFF#8, 0x7E#8, 0x7D#8, 0x01#8, 0x00#8, 0xFF#8, 0x7E#8, 0x7D#8, 0x00#8, 0x00#8, 0x7D#8] := by
  decide

/-! ### Single steps: the RX vectors -/

/-- V-RX-29: a start while busy is ignored. -/
theorem test_rx_start_busy :
    ((nextOf (exec (.rxStart 5#8) (rxAt .inframe [0x0A#8] 2#6 0#8))).map fun t => t.rx) =
      some (rxRegs .inframe [0x0A#8] 2#6 0#8 60#8 .none) := by decide

/-- V-RX-13: the 40th byte completes the frame. -/
theorem test_rx_stop_at_cap :
    ((nextOf (exec .rxByteInframeStop (rxAt .inframe ones38 39#6 0#8))).map fun t => (t.rx.state, t.rx.byteCnt)) =
      some (.complete, 40#6) := by decide

/-- V-RX-14: the 40th byte is appended and the invocation gives up. -/
theorem test_rx_cap :
    ((nextOf (exec (.rxByteInframeOther 0x22#8) (rxAt .inframe ones38 39#6 0#8))).map
      fun t => (t.rx.state, t.rx.accLen, t.rx.cause, t.rx.readAcc 38)) =
      some (.exhausted, 39#6, .byteCap, 0x22#8) := by decide

/-- V-RX-16: the 40th byte opens a frame, and still gives up. -/
theorem test_rx_start_marker_at_cap :
    ((nextOf (exec .rxByteSeekingStart (rxAt .seeking [] 39#6 0#8))).map fun t => (t.rx.state, t.rx.cause)) =
      some (.exhausted, .byteCap) := by decide

/-- V-RX-6: an escaped stop marker is data. -/
theorem test_rx_escaped_stop :
    ((nextOf (exec (.rxByteEscFrame 0x7D#8) (rxAt .escFrame [] 2#6 0#8))).map fun t => (t.rx.state, t.rx.frame)) =
      some (.inframe, [0x7D#8]) := by decide

/-- V-RX-3: an escape marker in the noise, and the start marker it hides. -/
theorem test_rx_escape_in_noise :
    ((nextOf (exec .rxByteSeekingEsc (rxAt .seeking [] 0#6 0#8))).map fun t => t.rx.state) = some .escSeek ∧
    ((nextOf (exec (.rxByteEscSeek 0x7C#8) (rxAt .escSeek [] 1#6 0#8))).map fun t => t.rx.state) =
      some .seeking := by decide

/-- V-RX-4: a stop marker outside a frame is noise. -/
theorem test_rx_stop_is_noise :
    ((nextOf (exec (.rxByteSeekingOther 0x7D#8) (rxAt .seeking [] 0#6 0#8))).map
      fun t => (t.rx.state, t.rx.byteCnt)) = some (.seeking, 1#6) := by decide

/-- V-RX-24: an escape marker inside a frame. -/
theorem test_rx_escape_in_frame :
    ((nextOf (exec .rxByteInframeEsc (rxAt .inframe [] 1#6 0#8))).map fun t => (t.rx.state, t.rx.frame)) =
      some (.escFrame, []) := by decide

/-- V-RX-20 and V-RX-21: the 60th idle poll gives up, the 59th does not. -/
theorem test_rx_idle :
    ((nextOf (exec .rxIdle (rxAt .seeking [] 0#6 59#8))).map fun t => (t.rx.state, t.rx.waitCnt, t.rx.cause)) =
      some (.exhausted, 60#8, .waitLimit) ∧
    ((nextOf (exec .rxIdle (rxAt .seeking [] 0#6 58#8))).map fun t => (t.rx.state, t.rx.waitCnt, t.rx.cause)) =
      some (.seeking, 59#8, .none) := by decide

/-- V-RX-22: the two values of the OPEN parameter, at the reference step. -/
theorem test_rx_reload :
    (rxStep dali (rxRegs .seeking [] 0#6 1#8 3#8 .none) (.byte 0x7C#8)).waitCnt = 1#8 ∧
    (rxStep { dali with waitReloadOnByte := true } (rxRegs .seeking [] 0#6 1#8 3#8 .none) (.byte 0x7C#8)).waitCnt =
      0#8 := by decide

/-- V-RX-30: after completion nothing is consumed. -/
theorem test_rx_complete_holds :
    ((nextOf (exec .wireStart (rxAt .complete [0x1E#8, 0x3C#8] 4#6 0#8))).map fun t => (t.rx, t.wireIn)) =
      some (rxRegs .complete [0x1E#8, 0x3C#8] 4#6 0#8 60#8 .none, [0x7C#8]) := by decide

/-- V-RX-32: the read is masked. -/
theorem test_rx_read :
    ((nextOf (exec (.rxRead 1#6) (rxAt .complete [0x1E#8, 0x3C#8] 4#6 0#8))).map fun t => t.host.rdData) =
      some 0x3C#8 ∧
    ((nextOf (exec (.rxRead 2#6) (rxAt .complete [0x1E#8, 0x3C#8] 4#6 0#8))).map fun t => t.host.rdData) =
      some 0x00#8 := by decide

/-- A queued byte is consumed before a later one: the oldest first. -/
theorem test_wire_order :
    ((nextOf (exec (.wireLiteral 0x22#8) { rxAt .inframe [] 1#6 0#8 with wireIn := [0x11#8] })).map
      fun t => (t.rx.frame, t.wireIn)) = some ([0x11#8], [0x22#8]) := by decide

/-- An event RX.BYTE 7C that is not the oldest queued byte cannot occur: nothing happens, and no byte is lost (R56 b). -/
theorem test_rx_byte_not_offered :
    ((nextOf (exec .rxByteSeekingStart (queued (rxAt .seeking [] 0#6 0#8) [0x41#8]))).map
      fun t => (t.rx.state, t.rx.byteCnt, t.wireIn)) = some (.seeking, 0#6, [0x41#8]) ∧
    ((nextOf (exec .rxByteSeekingStart (queued (rxAt .seeking [] 0#6 0#8) [0x7C#8, 0x41#8]))).map
      fun t => (t.rx.state, t.rx.byteCnt, t.wireIn)) = some (.inframe, 1#6, [0x41#8]) := by decide

/-! ### The parser's vectors -/

/-- V-MSG-3, V-MSG-5, V-MSG-9: the fields. -/
theorem test_msg_fields :
    parse dali [0x02#8, 0x09#8, 0x5A#8] = ⟨.daliRcv1Bytes, 0x02#8, 0x09#8, 0x5A#8, 0x00#8, false⟩ ∧
    (parse dali [0x03#8, 0x0A#8, 0x12#8, 0x34#8]).value16 = 0x1234 ∧
    parse dali [0x1E#8, 0x3C#8] = ⟨.echo, 0x1E#8, 0x00#8, 0x3C#8, 0x00#8, false⟩ := by decide

/-- V-MSG-1, V-MSG-8, V-MSG-10. -/
theorem test_msg_status_only :
    parse dali [0x0A#8, 0x04#8] = ⟨.timeframeExpired, 0x0A#8, 0x04#8, 0x00#8, 0x00#8, false⟩ ∧
    parse dali [0x0B#8, 0x10#8] = ⟨.invalidDaliFrame, 0x0B#8, 0x10#8, 0x00#8, 0x00#8, false⟩ ∧
    parse dali [0x01#8, 0xFF#8, 0x90#8, 0x00#8, 0x00#8] =
      ⟨.daliCommand, 0x01#8, 0x00#8, 0x00#8, 0x00#8, false⟩ := by decide

/-- V-MSG-12, V-MSG-14, V-MSG-17: no kind, empty, short. -/
theorem test_msg_corners :
    parse dali [0x04#8, 0x01#8] = ⟨.unknown, 0x04#8, 0x00#8, 0x00#8, 0x00#8, false⟩ ∧
    parse dali [] = ⟨.unknown, 0x00#8, 0x00#8, 0x00#8, 0x00#8, true⟩ ∧
    parse dali [0x03#8, 0x0A#8, 0x12#8] = ⟨.daliRcv2Bytes, 0x03#8, 0x0A#8, 0x12#8, 0x00#8, true⟩ := by decide

/-- The host's sample of an echo, qualified by `rx_ok`. -/
theorem test_msg_sample :
    ((nextOf (exec .msgEcho (rxAt .complete [0x1E#8, 0x3C#8] 4#6 0#8))).map
      fun t => (t.host.msg.echoed, t.host.msgOk)) = some (0x3C#8, true) := by decide

/-- 0x0C has VALID_REPLY and TIMEFRAME alone (V-MSG-2). -/
theorem test_status :
    ((nextOf (exec (.status 0x0C#8) State.reset)).map fun t => t.host.flags) =
      some ⟨false, false, false, false, true, true, false, false⟩ := by decide

/-! ### Witnesses: a concrete state and operands that meet each statement's hypotheses -/

/-- A legal unit inside an invocation, at the last byte the cap allows before it gives up. -/
def busyEdge : State := rxAt .inframe ones38 39#6 59#8

theorem lawful_busyEdge : Lawful busyEdge := by
  refine ⟨?_, ?_, ?_, ?_, ?_, ?_, ?_, ?_, ?_, ?_, ?_, ?_, ?_, ?_⟩ <;> decide

theorem lawful_finished : Lawful finished := by
  refine ⟨?_, ?_, ?_, ?_, ?_, ?_, ?_, ?_, ?_, ?_, ?_, ?_, ?_, ?_⟩ <;> decide

theorem witness_ResetEdgeBeatsEverything :
    (⟨true, ⟨true, 0b01#2, 0x00#8, true⟩, true, 60#8, true, 0x7C#8, true, 0#6⟩ : Inputs).rst = true ∧
    ({ busyEdge with script := [.rst] } : State).script = .rst :: [] := ⟨rfl, rfl⟩

theorem witness_StepRunsTheDecodedInstruction :
    fetch { busyEdge with script := [.wire 0x7D#8] } = .word (.wire 0x7D#8) ∧
    instrOf (decode (.wire 0x7D#8)) = some .wireStop := by decide

theorem witness_WireByteHasOneClass :
    (0x7B#8 ≠ 0x7C#8 ∧ 0x7B#8 ≠ 0x7D#8 ∧ 0x7B#8 ≠ 0x7E#8) ∧ (0x7F#8 ≠ 0x7C#8 ∧ 0x7F#8 ≠ 0x7D#8 ∧ 0x7F#8 ≠ 0x7E#8) := by
  decide

theorem witness_DecodeOfEncodeIsTheInstruction : (Instr.wireLiteral 0x7F#8).wf = true ∧
    (Instr.rxByteInframeOther 0x7C#8).wf = true ∧ (Instr.txDataMarker 0x7E#8).wf = true := by decide

theorem witness_DecodedInstructionsAreWellFormed :
    instrOf (decode (.txItem 1#2 0x07E#10)) = some (.txDataMarker 0x7E#8) := by decide

theorem witness_HeaderTableIsABijection : dali.HeadersDistinct ∧ MsgKind.echo ≠ .unknown := by decide

theorem witness_TxBeginOpensAFrame :
    (txAt .idle 0x00#8).tx.state = .idle ∧ (txAt .opened 0x00#8).tx.state = .opened ∧
      (txAt .esc2 0x7C#8).tx.state = .esc2 := by decide

theorem witness_TxDataLiteralEmitsTheByte :
    (0x7B#8 ≠ 0x7C#8 ∧ 0x7B#8 ≠ 0x7D#8 ∧ 0x7B#8 ≠ 0x7E#8) ∧ (txAt .opened 0x00#8).tx.state = .opened ∧
      (txAt .idle 0x00#8).tx.state = .idle ∧ (txAt .esc2 0x7C#8).tx.state = .esc2 := by decide

theorem witness_TxDataMarkerEmitsTheEscape :
    (0x7E#8 = 0x7C#8 ∨ 0x7E#8 = 0x7D#8 ∨ 0x7E#8 = 0x7E#8) ∧ (txAt .opened 0x00#8).tx.state = .opened ∧
      (txAt .idle 0x00#8).tx.state = .idle ∧ (txAt .esc2 0x7E#8).tx.state = .esc2 := by decide

theorem witness_TxDrainEmitsTheByteOwed :
    (txAt .esc2 0x7D#8).tx.state = .esc2 ∧
    ({ txAt .esc2 0x7D#8 with script := [.tx ⟨true, 0b10#2, 0x00#8, false⟩] } : State).script =
      .tx ⟨true, 0b10#2, 0x00#8, false⟩ :: [] := ⟨rfl, rfl⟩

theorem witness_TxEndClosesTheFrame :
    (txAt .opened 0x00#8).tx.state = .opened ∧ (txAt .idle 0x00#8).tx.state = .idle ∧
      (txAt .esc2 0x7C#8).tx.state = .esc2 := by decide

/-- An illegal item in each of the two states that judge, offered twice; and a unit that judges nothing. -/
theorem witness_IllegalItemsAreNeverAccepted :
    (let s : State := { txAt .idle 0x00#8 with script := List.replicate 2 (.tx ⟨true, 0b11#2, 0x00#8, false⟩) ++ [] }
     s.tx.state = .idle ∧ (0b11#2 : BitVec 2) ≠ 0b01#2 ∧
      s.script = List.replicate (1 + 1) (.tx ⟨true, 0b11#2, 0x00#8, false⟩) ++ []) ∧
    (let s : State := { txAt .opened 0x00#8 with script := List.replicate 1 (.tx ⟨true, 0b01#2, 0x00#8, true⟩) ++ [] }
     s.tx.state = .opened ∧ s.script = List.replicate (0 + 1) (.tx ⟨true, 0b01#2, 0x00#8, true⟩) ++ []) ∧
    (txAt .opened 0x00#8).tx.state ≠ .esc2 ∧ (txAt .esc2 0x7C#8).tx.state = .esc2 := by decide

theorem witness_TxStepIsThePortCycle :
    ({ txAt .opened 0x00#8 with script := [.tx ⟨true, 0b00#2, 0x7C#8, true⟩] } : State).script =
      .tx ⟨true, 0b00#2, 0x7C#8, true⟩ :: [] := rfl

theorem witness_TxRunIsThePortRun :
    ({ State.reset with script := [.tx ⟨true, 0b01#2, 0x00#8, true⟩, .parse] } : State).script =
      [(⟨true, 0b01#2, 0x00#8, true⟩ : TxIn)].map .tx ++ [.parse] := rfl

/-- A run with the wire sink not ready once and an escape pair drained while END waits. -/
theorem witness_StufferStreamIsEncode :
    TxUnit.reset.state = .idle ∧
    txAccepted dali TxUnit.reset
      [⟨true, 0b01#2, 0x00#8, false⟩, ⟨true, 0b01#2, 0x00#8, true⟩, ⟨true, 0b00#2, 0x7D#8, true⟩,
        ⟨true, 0b10#2, 0x00#8, true⟩, ⟨true, 0b10#2, 0x00#8, true⟩] =
      .beginFrame :: ([0x7D#8].map .data ++ [.endFrame]) := by decide

theorem witness_EncodeIsInjective : stuff dali [0x7C#8] = stuff dali [0x7C#8] := rfl

theorem witness_RxStartBeginsAnInvocation :
    busyEdge.rx.busy = true ∧ finished.rx.busy = false ∧ (0#8 : Wait).toNat ≤ 1 ∧ (1#8 : Wait).toNat ≤ 1 := by decide

theorem witness_RxByteWhileSeeking :
    (rxAt .seeking [] 39#6 0#8).rx.state = .seeking ∧ (0x7D#8 : Byte) ≠ 0x7C#8 ∧ (0x7D#8 : Byte) ≠ 0x7E#8 ∧
    (queued (rxAt .seeking [] 39#6 0#8) [0x7C#8]).wireIn = 0x7C#8 :: [] ∧
    (queued (rxAt .seeking [] 39#6 0#8) [0x7E#8]).wireIn = 0x7E#8 :: [] ∧
    (queued (rxAt .seeking [] 39#6 0#8) [0x7D#8]).wireIn = 0x7D#8 :: [] := by decide

theorem witness_RxByteAfterNoiseEscapeIsDiscarded :
    (queued (rxAt .escSeek [] 39#6 0#8) [0x7C#8]).rx.state = .escSeek ∧
    (queued (rxAt .escSeek [] 39#6 0#8) [0x7C#8]).wireIn = 0x7C#8 :: [] := by decide

theorem witness_RxStopCompletesTheFrame :
    (queued busyEdge [0x7D#8]).rx.state = .inframe ∧ (queued busyEdge [0x7D#8]).wireIn = 0x7D#8 :: [] := by decide

theorem witness_RxEscapeInsideAFrame :
    (queued busyEdge [0x7E#8]).rx.state = .inframe ∧ (queued busyEdge [0x7E#8]).wireIn = 0x7E#8 :: [] := by decide

/-- Both arms, and both sides of the accumulator's end. -/
theorem witness_RxByteIsAppended :
    (queued busyEdge [0x7C#8]).rx.state = .inframe ∧ (queued busyEdge [0x7C#8]).wireIn = 0x7C#8 :: [] ∧
    (0x7C#8 : Byte) ≠ 0x7D#8 ∧ (0x7C#8 : Byte) ≠ 0x7E#8 ∧
    (queued (rxAt .escFrame [] 2#6 0#8) [0x7D#8]).rx.state = .escFrame ∧
    (queued (rxAt .escFrame [] 2#6 0#8) [0x7D#8]).wireIn = 0x7D#8 :: [] ∧ Memory.wf busyEdge.rx.acc = true ∧
    busyEdge.rx.accLen.toNat < 39 ∧ ¬ (rxAt .inframe (List.replicate 39 0x11#8) 39#6 0#8).rx.accLen.toNat < 39 ∧
    37 ≠ busyEdge.rx.accLen.toNat := by decide

theorem witness_RxByteCountsThenChecksTheCap : busyEdge.rx.busy = true := rfl

theorem witness_RxByteRowsAreTheReferenceStep : busyEdge.rx.busy = true ∧ busyEdge.rx.accLen.toNat < 39 := by decide

theorem witness_RxIdleCountsAndGivesUpAtTheLimit : busyEdge.rx.busy = true ∧ finished.rx.busy = false := by decide

/-- A busy unit, and one that gave up with a full accumulator. -/
theorem witness_RxEventSelection :
    ({ busyEdge with script := [.rx true 5#8 true] } : State).script = .rx true 5#8 true :: [] ∧
      busyEdge.rx.busy = true ∧ busyEdge.rx.accLen.toNat < 39 ∧
      (rxAt .exhausted (List.replicate 39 0x11#8) 40#6 0#8).rx.busy = false ∧
      (rxAt .exhausted (List.replicate 39 0x11#8) 40#6 0#8).rx.accLen = 39#6 := by decide

theorem witness_TerminalStatesHold :
    finished.rx.state = .complete ∧ (rxAt .exhausted [] 40#6 0#8).rx.state = .exhausted ∧
      State.reset.rx.state = .idle ∧ (∀ n, Instr.rxIdle ≠ .rxStart n) :=
  ⟨rfl, rfl, rfl, fun _ => Instr.noConfusion⟩

/-- The first index beyond the accumulator, in a lawful state. -/
theorem witness_RxReadIsMasked : Lawful busyEdge ∧ 39 ≤ (39#6 : Cnt).toNat := ⟨lawful_busyEdge, by decide⟩

theorem witness_WireBytesReachTheUnstuffer :
    (Instr.wireStart = .wireStart ∧ (0x7C#8 : Byte) = 0x7C#8) ∧ (Instr.wireStop = .wireStop ∧ (0x7D#8 : Byte) = 0x7D#8) ∧
    (Instr.wireEsc = .wireEsc ∧ (0x7E#8 : Byte) = 0x7E#8) ∧ Instr.wireLiteral 0x41#8 = .wireLiteral 0x41#8 ∧
    finished.rx.busy = false ∧ busyEdge.rx.busy = true ∧ busyEdge.rx.accLen.toNat < 39 := by decide

theorem witness_WireBytesAreConsumedInOrder :
    ({ busyEdge with script := [.wire 0x7D#8] } : State).offer = .wire 0x7D#8 ∧
    (∀ b, busyEdge.offer ≠ .wire b) ∧ (∀ w, busyEdge.offer ≠ .event w) ∧
    ({ busyEdge with script := [.wire 0x7D#8] } : State).offer ≠ .flush ∧
    (∃ t, step { busyEdge with script := [.wire 0x7D#8] } = .next t) ∧
    ∃ t, step { busyEdge with script := [.event (.rxEvent 2#3 0b01001111101#11)] } = .next t :=
  ⟨rfl, fun _ h => Offer.noConfusion h, fun _ h => Offer.noConfusion h, fun h => Offer.noConfusion h, ⟨_, rfl⟩, _, rfl⟩

/-- The longest frame the cap allows, with the most idle polls the limit allows. -/
theorem witness_RoundTrip :
    dali.MarkersDistinct ∧ dali.CapFits ∧ finished.rx.busy = false ∧ Memory.wf finished.rx.acc = true ∧
    (let before := List.replicate 59 PollItem.idle ++ (stuff dali ones38).map .byte
     scriptBytes before = stuff dali ones38 ∧ before.getLast? = some (.byte 0x7D#8) ∧
      (stuff dali ones38).length = dali.byteCap ∧ scriptIdles before < (60#8 : Wait).toNat) := by decide

theorem witness_ResynchronisesAfterNoise :
    dali.MarkersDistinct ∧ dali.CapFits ∧ finished.rx.busy = false ∧ Memory.wf finished.rx.acc = true ∧
    (let g : List Byte := [0x7D#8, 0x7E#8, 0x7C#8]
     let p : List Byte := [0x0A#8, 0x04#8]
     let before := (g ++ stuff dali p).map PollItem.byte
     quietNoise dali false g = true ∧ scriptBytes before = g ++ stuff dali p ∧
      before.getLast? = some (.byte 0x7D#8) ∧ g.length + (stuff dali p).length ≤ dali.byteCap ∧
      scriptIdles before < (1#8 : Wait).toNat) := by decide

theorem witness_EscapeInTheNoiseHidesTheFrame :
    dali.MarkersDistinct ∧ dali.CapFits ∧ finished.rx.busy = false ∧
      quietNoise dali false [0x00#8, 0x7E#8, 0x7C#8] = true ∧
      scriptBytes (.idle :: ([] ++ dali.esc :: stuff dali [0x1E#8, 0x3C#8]).map .byte) =
        [] ++ dali.esc :: stuff dali [0x1E#8, 0x3C#8] ∧
      [0x00#8, 0x7E#8, 0x7C#8].length + 1 + (stuff dali (List.replicate 33 0x11#8)).length < dali.byteCap := by decide

theorem witness_LostStopMarkerMergesFrames :
    dali.MarkersDistinct ∧ dali.CapFits ∧ finished.rx.busy = false ∧ Memory.wf finished.rx.acc = true ∧
    (dali.start :: ([0x0A#8, 0x01#8].flatMap (stuffByte dali) ++ stuff dali [0x0B#8, 0x00#8])).length ≤
      dali.byteCap := by decide

theorem witness_SilenceGivesUpAtTheLimit :
    finished.rx.busy = false ∧ 1 ≤ (1#8 : Wait).toNat ∧ 1 ≤ (255#8 : Wait).toNat := by decide

theorem witness_InvocationsAreBounded :
    dali.CapFits ∧ dali.waitReloadOnByte = false ∧ finished.rx.busy = false ∧
      dali.byteCap + max (0#8 : Wait).toNat 1 ≤ (List.replicate 41 PollItem.idle).length ∧
      dali.byteCap * max (2#8 : Wait).toNat 1 ≤ (List.replicate 80 PollItem.idle).length := by decide

theorem witness_NothingIsRetainedAcrossInvocations :
    finished.rx.busy = false ∧ (rxAt .exhausted [0x0A#8] 40#6 0#8).rx.busy = false ∧
    Memory.wf finished.rx.acc = true ∧ Memory.wf (rxAt .exhausted [0x0A#8] 40#6 0#8).rx.acc = true := by decide

theorem witness_MachineRunsTheReferenceRun :
    Lawful { finished with script := [.rx true 60#8 false, .wire 0x7C#8, .rx false 0x00#8 true] } ∧
    finished.rx.busy = false ∧ finished.wireIn = [] ∧
    ({ finished with script := [.rx true 60#8 false, .wire 0x7C#8, .rx false 0x00#8 true] } : State).script =
      .rx true 60#8 false :: [PollItem.byte 0x7C#8, .idle].map pollOffer :=
  ⟨lawful_finished, rfl, rfl, rfl⟩

theorem witness_EveryStepKeepsLawful : Lawful busyEdge ∧ ∃ t, step busyEdge = .next t := ⟨lawful_busyEdge, _, rfl⟩

theorem witness_LawfulStatesNeverStop : Lawful finished ∧ OffersDecode finished :=
  ⟨lawful_finished, fun _ h => Offer.noConfusion h⟩

/-- One step into each of the two give-ups. -/
theorem witness_GiveUpHasTwoCauses :
    ((nextOf (step { busyEdge with script := [.wire 0x41#8] })).map fun t => (t.rx.state, t.rx.cause)) =
      some (.exhausted, .byteCap) ∧
    ((nextOf (step { busyEdge with script := [.rx false 0x00#8 true] })).map fun t => (t.rx.state, t.rx.cause)) =
      some (.exhausted, .waitLimit) ∧ busyEdge.rx.state ≠ .exhausted := by decide

theorem witness_OnlyStartOrResetLeavesATerminalState :
    finished.rx.state = .complete ∧
    ((nextOf (step { finished with script := [.rx true 60#8 false] })).map fun t => t.rx.state) = some .seeking := by
  decide

/-- Operations that meet every premise on the operation, and complete. -/
theorem witness_RegistersAreWrittenOnlyByTheirOperations :
    (∃ t, exec (.status 0x04#8) busyEdge = .next t) ∧ (encode (.status 0x04#8)).format ≠ .txItem ∧
    (encode (.status 0x04#8)).format ≠ .wire ∧ (encode (.status 0x04#8)).format ≠ .rxEvent ∧
    (∀ b, Instr.status 0x04#8 ≠ .txDataMarker b) ∧ (∀ n, Instr.status 0x04#8 ≠ .rxStart n) :=
  ⟨⟨_, rfl⟩, by decide, by decide, by decide, fun _ => Instr.noConfusion, fun _ => Instr.noConfusion⟩

theorem witness_OnlyAppendWritesTheAccumulator :
    (∃ t, exec (.rxByteInframeOther 0x41#8) busyEdge = .next t) ∧ 37 ≠ busyEdge.rx.accLen.toNat ∧
    (∃ t, exec .rxIdle finished = .next t) ∧ finished.rx.state ≠ .inframe ∧ finished.rx.state ≠ .escFrame ∧
    (∃ t, exec .rxIdle busyEdge = .next t) ∧ (∀ b, Instr.rxIdle ≠ .rxByteInframeOther b) ∧
    (∀ b, Instr.rxIdle ≠ .rxByteEscFrame b) ∧ (encode .rxIdle).format ≠ .wire ∧
    (∃ t, exec .wireStop busyEdge = .next t) ∧
    (∀ b rest, busyEdge.wireIn ++ Instr.wireStop.delivers busyEdge = b :: rest → busyEdge.rx.appends dali b = false) := by
  refine ⟨⟨_, rfl⟩, by decide, ⟨_, rfl⟩, by decide, by decide, ⟨_, rfl⟩, fun _ => Instr.noConfusion,
    fun _ => Instr.noConfusion, by decide, ⟨_, rfl⟩, ?_⟩
  intro b rest h
  cases h
  rfl

theorem witness_UnitsCommute :
    (∃ start limit tick, (Offer.rx true 60#8 true) = .rx start limit tick) ∧ (∃ b, Offer.wire 0x7C#8 = .wire b) ∧
    (∃ k, Offer.read 0#6 = .read k) ∧ (∃ v, Offer.status 0x04#8 = .status v) :=
  ⟨⟨_, _, _, rfl⟩, ⟨_, rfl⟩, ⟨_, rfl⟩, ⟨_, rfl⟩⟩

theorem witness_ClockEdgeIsTwoSteps :
    let i : Inputs := ⟨false, ⟨true, 0b01#2, 0x00#8, true⟩, true, 60#8, true, 0x41#8, true, 0#6⟩
    let s : State := { busyEdge with wireIn := [0x41#8], script := [.tx i.tx, .rx true 60#8 true] }
    Lawful s ∧ i.rst = false ∧ i.wrxValid = !s.wireIn.isEmpty ∧ i.wrxData = s.wireIn.headD 0x00#8 ∧
      s.script = .tx i.tx :: .rx i.rxStart i.rxWaitLimit i.pollTick :: [] :=
  ⟨lawful_busyEdge, rfl, rfl, rfl, rfl⟩

theorem witness_StatusOnlyMessages :
    (rxAt .complete [0x0A#8, 0x04#8] 4#6 0#8).rx.frame = 0x0A#8 :: [0x04#8] ∧
    (rxAt .complete [0x0B#8] 3#6 0#8).rx.frame = 0x0B#8 :: [] := by decide

theorem witness_OneByteReplies : (rxAt .complete [0x02#8, 0x09#8] 4#6 0#8).rx.frame = 0x02#8 :: [0x09#8] := by decide

theorem witness_TwoByteReplies :
    (rxAt .complete [0x03#8, 0x0A#8, 0xFF#8, 0xFF#8] 6#6 0#8).rx.frame = 0x03#8 :: [0x0A#8, 0xFF#8, 0xFF#8] := by decide

theorem witness_EchoMessages : finished.rx.frame = 0x1E#8 :: [0x3C#8] := by decide

theorem witness_MessagesWithoutFields :
    (rxAt .complete [0x01#8, 0xFF#8] 4#6 0#8).rx.frame = 0x01#8 :: [0xFF#8] ∧
    (rxAt .complete [0x04#8] 3#6 0#8).rx.frame = 0x04#8 :: [] ∧
    ((0x04#8 : Byte) ≠ 0x01#8 ∧ (0x04#8 : Byte) ≠ 0x02#8 ∧ (0x04#8 : Byte) ≠ 0x03#8 ∧ (0x04#8 : Byte) ≠ 0x0A#8 ∧
      (0x04#8 : Byte) ≠ 0x0B#8 ∧ (0x04#8 : Byte) ≠ 0x1E#8) ∧
    State.reset.rx.frame = [] := by decide

theorem witness_ParserStepIsParse :
    ({ finished with script := [.parse] } : State).script = .parse :: [] := rfl

/-- At the boundary: exactly the layout, and one byte more. -/
theorem witness_FrameLengthsAreJudged :
    (parse dali (0x02#8 :: [0x09#8, 0x5A#8])).kind.need ≤ (0x02#8 :: [0x09#8, 0x5A#8] : List Byte).length := by decide

theorem witness_StatusFlagsAreTheBits :
    (parse dali [0x1E#8, 0x3C#8]).kind = .echo ∧ (parse dali [0x01#8]).kind = .daliCommand ∧
      (parse dali []).kind = .unknown := by decide

theorem witness_BuildersParseBack : dali.HeadersDistinct ∧ headerOfKind dali .echo = some 0x1E#8 := by decide

end Sys2Proof.Tests
end

section
/-! PROOFS, 00_scope.md. One TX cycle and one RX cycle of the machine as whole next states, given by the port level's
own functions (Machine/Port.lean); a clock edge is the two in a row. -/

namespace Sys2Proof.Machine

/-! ### The TX cycle -/

/-- The state after a TX cycle with the inputs `i`, as the port level has it (R107): the registers, the byte emitted, and
the handshake the host sees. -/
def State.afterTxCycle (s : State) (i : TxIn) : State :=
  { s with
    tx := txCycle dali s.tx i
    wireOut := s.wireOut ++ txEmits dali s.tx i
    host := { s.host with txReady := s.tx.ready i, txErr := s.tx.err i } }

/-- A cycle in which no TX step happens and no item is judged illegal changes only the handshake the host sees. -/
theorem afterTxCycle_of_hold {s : State} {i : TxIn} (hf : txFire s.tx i = false) (he : s.tx.err i = false) :
    s.afterTxCycle i = s.txSample (s.tx.ready i) false := by
  simp [State.afterTxCycle, State.txSample, txCycle, txEmits, hf, he]

/-- An illegal item is rejected, whatever `wtx_ready` is (R106). -/
theorem afterTxCycle_of_err {s : State} {i : TxIn} (he : s.tx.err i = true) : s.afterTxCycle i = rejectItem s := by
  have hv := he
  simp only [TxUnit.err, Bool.and_eq_true, Bool.not_eq_true', beq_eq_false_iff_ne] at hv
  obtain ⟨⟨-, hs⟩, hl⟩ := hv
  have hf : txFire s.tx i = false := by simp [txFire, wtxValid, hs, hl]
  have hr : s.tx.ready i = false := by simp [TxUnit.ready, hl]
  simp [State.afterTxCycle, rejectItem, State.txSample, txCycle, txEmits, hf, he, hr]

/-- A legal item, offered with the wire sink ready, is accepted with its wire byte and its registers (R107). -/
theorem afterTxCycle_of_accept {s : State} {i : TxIn} (hv : i.valid = true) (hw : i.wtxReady = true)
    (hl : s.tx.legal i.kind = true) :
    s.afterTxCycle i = acceptItem (wtxData dali s.tx i) (txNext dali s.tx i) s := by
  have hf : txFire s.tx i = true := by simp [txFire, wtxValid, hv, hw, hl]
  have he : s.tx.err i = false := by simp [TxUnit.err, hl]
  have hr : s.tx.ready i = true := by simp [TxUnit.ready, hw, hl]
  simp [State.afterTxCycle, acceptItem, State.emit, State.txSample, txCycle, txEmits, hf, he, hr]

/-- The four values of `tx_kind` (R82). -/
theorem txKind_cases (k : BitVec 2) : k = 0b00#2 ∨ k = 0b01#2 ∨ k = 0b10#2 ∨ k = 0b11#2 := by
  revert k; decide

/-- Outside `TX_ESC2` the row is chosen by `tx_kind` and, for data, by the byte's class (R82). -/
theorem decode_txItemWord {S : TxState} (hS : S ≠ .esc2) (k : BitVec 2) (b : Byte) :
    decode (txWord S.code k b) =
      .ok (if k = 0b01#2 then .txBegin b else if k = 0b10#2 then .txEnd b else if k = 0b11#2 then .txReserved b
        else if isMarker dali b then .txDataMarker b else .txDataLiteral b) := by
  have h3 : S.code ≠ 3#2 := by cases S <;> decide
  have h2 : S.code ≠ 2#2 := by
    cases S with
    | idle | opened => decide
    | esc2 => exact absurd rfl hS
  rw [decode_txWord, decodeTx, if_neg h3, if_neg h2]
  split_ifs <;> rfl

/-- Outside `TX_ESC2` an item's row accepts it if it is legal and rejects it if it is not (R101 to R106). -/
theorem exec_txItem {s : State} (hs : s.tx.state ≠ .esc2) (i : TxIn) :
    ∃ j, decode (txWord s.tx.state.code i.kind i.data) = .ok j ∧
      exec j s = .next (if s.tx.legal i.kind then acceptItem (wtxData dali s.tx i) (txNext dali s.tx i) s
        else rejectItem s) := by
  refine ⟨_, decode_txItemWord hs _ _, ?_⟩
  obtain hk | hk | hk | hk := txKind_cases i.kind
  · cases hm : isMarker dali i.data with
    | true => cases hq : s.tx.state <;> simp_all [exec, execTxDataMarker, TxUnit.legal, wtxData, txNext]
    | false =>
      cases hq : s.tx.state with
      | idle => simp [exec, execTxDataLiteral, TxUnit.legal, hk, hm, hq]
      | opened =>
        have hkeep : { s.tx with state := .opened } = s.tx := by rw [← hq]
        simp [exec, execTxDataLiteral, TxUnit.legal, wtxData, txNext, hk, hm, hq, hkeep]
      | esc2 => exact absurd hq hs
  · cases hq : s.tx.state <;> simp_all [exec, execTxBegin, TxUnit.legal, wtxData, txNext]
  · cases hq : s.tx.state <;> simp_all [exec, execTxEnd, TxUnit.legal, wtxData, txNext]
  · cases hq : s.tx.state <;> simp_all [exec, execTxReserved, TxUnit.legal]

/-- A TX cycle of the machine in `TX_ESC2` drains the byte owed once the wire sink is ready (R104). -/
theorem step_tx_of_esc2 {s : State} {i : TxIn} (ho : s.offer = .tx i) (hs : s.tx.state = .esc2) :
    step s = .next (s.advance.afterTxCycle i) := by
  have he : s.tx.err i = false := by simp [TxUnit.err, hs]
  cases hw : i.wtxReady with
  | false =>
    have hf : txFire s.tx i = false := by simp [txFire, hw]
    rw [afterTxCycle_of_hold (s := s.advance) hf he]
    simp [step, fetch, ho, fetchTx, hs, hw]
  | true =>
    have hfetch : fetch s = .word (txWord 2#2 i.kind i.data) := by
      simp [fetch, ho, fetchTx, hs, hw, TxState.code]
    rw [step_of_word hfetch (decode_txWord _ _ _)]
    simp [exec, execTxDrain, State.afterTxCycle, holdItem, State.emit, State.txSample, txCycle, txEmits, txFire, wtxValid,
      wtxData, txNext, TxUnit.ready, TxUnit.legal, hs, hw, he]

/-- A TX cycle of the machine outside `TX_ESC2` judges the item offered, or waits for the wire sink (R107). -/
theorem step_tx_of_judging {s : State} {i : TxIn} (ho : s.offer = .tx i) (hs : s.tx.state ≠ .esc2) :
    step s = .next (s.advance.afterTxCycle i) := by
  have hfetch : fetch s = if i.valid && (i.wtxReady || s.tx.err i) then .word (txWord s.tx.state.code i.kind i.data)
      else .hold (s.tx.ready i) := by
    cases hq : s.tx.state <;> simp_all [fetch, fetchTx]
  obtain ⟨j, hj, hexec⟩ := exec_txItem (s := s.advance) hs i
  cases hv : i.valid with
  | false =>
    have he : s.tx.err i = false := by simp [TxUnit.err, hv]
    have hf : txFire s.tx i = false := by simp [txFire, wtxValid, hv, hs]
    rw [afterTxCycle_of_hold (s := s.advance) hf he]
    simp [step, hfetch, hv]
  | true =>
    cases hl : s.tx.legal i.kind with
    | false =>
      have he : s.tx.err i = true := by simp [TxUnit.err, hv, hs, hl]
      rw [afterTxCycle_of_err (s := s.advance) he, step_of_word (by simp [hfetch, hv, he]) hj, hexec]
      simp [hl]
    | true =>
      have he : s.tx.err i = false := by simp [TxUnit.err, hl]
      cases hw : i.wtxReady with
      | false =>
        have hf : txFire s.tx i = false := by simp [txFire, hw]
        rw [afterTxCycle_of_hold (s := s.advance) hf he]
        simp [step, hfetch, hw, he]
      | true =>
        rw [afterTxCycle_of_accept (s := s.advance) hv hw hl, step_of_word (by simp [hfetch, hv, hw]) hj, hexec]
        simp [hl]

/-- A TX cycle of the machine is the TX cycle of the port level (R107). -/
theorem step_tx {s : State} {i : TxIn} (ho : s.offer = .tx i) : step s = .next (s.advance.afterTxCycle i) := by
  by_cases hs : s.tx.state = .esc2
  · exact step_tx_of_esc2 ho hs
  · exact step_tx_of_judging ho hs

/-! ### The RX cycle -/

/-- The code of an RX state is none of the codes that never occur. -/
theorem RxState.code_ne_seven (S : RxState) : S.code ≠ 7#3 := by cases S <;> decide

/-- The event that a cycle's word decodes to, in the fixed priority of R122. -/
theorem decode_rxCycleWord (S : RxState) (busy start valid tick : Bool) (d : Byte) :
    decode (rxWord S.code (rxVector busy start valid tick) d) =
      .ok (if start && !busy then .rxStart d else if busy && valid then decodeRxByte S.code d
        else if busy && tick then .rxIdle else .rxNone) := by
  have h2 : (rxVector busy start valid tick).getLsbD 2 = (start && !busy) := by
    revert busy start valid tick; decide
  have h1 : (rxVector busy start valid tick).getLsbD 1 = (busy && valid) := by
    revert busy start valid tick; decide
  have h0 : (rxVector busy start valid tick).getLsbD 0 = (busy && tick) := by
    revert busy start valid tick; decide
  rw [decode_rxWord, decodeRx, if_neg S.code_ne_seven, h2, h1, h0]
  split_ifs <;> rfl

/-- R38 item 3: a busy unit always has a cell left to append to. -/
theorem accLen_lt_accCap_of_busy {r : RxUnit} (hl : RxLawful dali r) (hb : r.busy = true) :
    r.accLen.toNat < accCap dali := by
  have hcap : r.byteCnt.toNat < 40 := hl.busyBelowCap hb
  rw [dali_accCap]
  obtain h | h | h | h := r.busy_iff.1 hb
  · simp [hl.seekingEmpty (.inl h)]
  · have := hl.openFrame (.inl h); omega
  · simp [hl.seekingEmpty (.inr h)]
  · have := hl.openFrame (.inr h); omega

/-- The head of a queue that is not empty is a byte the wire source offers. -/
theorem State.offersByte_head {s : State} (h : s.wireIn ≠ []) (d : Byte) : s.offersByte (s.wireIn.headD d) = true := by
  obtain ⟨b, rest, hw⟩ := List.exists_cons_of_ne_nil h
  simp [State.offersByte, hw]

/-- An RX cycle of the machine, from a lawful state, is the RX cycle of the port level: a busy unit takes the oldest byte
queued, if there is one (R122). -/
theorem step_rx {s : State} {i : Inputs} (hl : Lawful s) (hv : i.wrxValid = !s.wireIn.isEmpty)
    (hd : i.wrxData = s.wireIn.headD 0x00#8) (ho : s.offer = .rx i.rxStart i.rxWaitLimit i.pollTick) :
    step s = .next { s.advance with
      rx := rxCycle dali s.rx i
      wireIn := if s.rx.busy && i.wrxValid then s.wireIn.tail else s.wireIn } := by
  have hfetch : fetch s = .word (rxWord s.rx.state.code (rxVector s.rx.busy i.rxStart i.wrxValid i.pollTick)
      (if i.rxStart && !s.rx.busy then i.rxWaitLimit else i.wrxData)) := by
    simp only [fetch, ho, fetchRx, hv, hd]
  rw [step_of_word hfetch (decode_rxCycleWord _ _ _ _ _ _)]
  cases hb : s.rx.busy with
  | false =>
    cases hstart : i.rxStart <;>
      simp [exec, execRxStart, execRxNone, rxCycle, rxSelect, hb, hstart, State.advance]
  | true =>
    cases hvalid : i.wrxValid with
    | false =>
      cases htick : i.pollTick <;>
        simp [exec, execRxIdle, execRxNone, rxCycle, rxSelect, hb, hvalid, htick, State.advance]
    | true =>
      have hne : s.wireIn ≠ [] := by simpa [hvalid] using hv
      have hoffers : s.advance.offersByte i.wrxData = true := by
        rw [hd]; exact State.offersByte_head (s := s.advance) hne _
      obtain ⟨j, hj, hexec⟩ := exec_rxByteRow i.wrxData s.advance hb
      rw [if_pos hoffers, consumeByte_of_room (s := s.advance) (accLen_lt_accCap_of_busy hl hb)] at hexec
      simp only [State.advance_rx] at hj
      simp [hj, hexec, rxCycle, rxSelect, hb, hvalid, State.consume]

/-! ### One clock edge -/

/-- Settles O51: the TX cycle changes neither the RX registers nor the queue, so the RX cycle after it is the one the edge
has (R59), and each is the port level's own. -/
theorem clockEdgeIsTwoSteps : Obligations.ClockEdgeIsTwoSteps := by
  unfold Obligations.ClockEdgeIsTwoSteps
  intro s i rest hl hrst hv hd hscript
  have htx : step s = .next (s.advance.afterTxCycle i.tx) := step_tx (State.offer_of_cons hscript)
  have hrest : (s.advance.afterTxCycle i.tx).script = .rx i.rxStart i.rxWaitLimit i.pollTick :: rest := by
    simp [State.afterTxCycle, hscript]
  have hrx := step_rx (s := s.advance.afterTxCycle i.tx) hl hv hd (State.offer_of_cons hrest)
  refine ⟨_, (runSteps_next 1 htx).trans (runSteps_next 0 hrx), ?_, ?_, ?_⟩
  · simp [clockEdge, hrst, State.afterTxCycle]
  · simp [hrest]
  · rfl

end Sys2Proof.Machine
end

section
/-! PROOFS, 10_state.md. The RX registers after reset, after RX.START, after an idle poll and after a byte keep R38, for
every configuration; a step of the machine is one of these.  Then what `Append` alone can write, and the four
wire rows. -/

namespace Sys2Proof

open Sys2Proof.Machine

/-! ### Reset and selection -/

/-- Settles O1: each register is at its value, and an idle unit's outputs follow. -/
theorem resetLeavesTheSpecValues : Obligations.ResetLeavesTheSpecValues := by
  unfold Obligations.ResetLeavesTheSpecValues
  exact ⟨rfl, rfl, rfl, rfl, rfl, rfl, rfl, fun _ => ⟨rfl, rfl, rfl, rfl, rfl, rfl, rfl, rfl, rfl⟩⟩

/-- Settles O3: `advance` is the state with the offer taken off the script. -/
theorem stepRunsTheDecodedInstruction : Obligations.StepRunsTheDecodedInstruction := by
  unfold Obligations.StepRunsTheDecodedInstruction
  exact fun _ _ _ hf hd => step_of_word hf hd

/-- After a reset edge the registers meet R38, whatever they were; the cells of `acc` are the ones before. -/
theorem rxLawful_resetFrom {c : Config} {r : RxUnit} (hwf : Memory.wf r.acc = true)
    (hin : Memory.within (accCap c) r.acc = true) : RxLawful c r.resetFrom := by
  constructor <;> simp [RxUnit.resetFrom, RxUnit.reset, RxUnit.busy, hwf, hin]

/-- Settles O43: `State.reset` is what a reset edge makes of an accumulator that lists nothing. -/
theorem resetIsLawful : Obligations.ResetIsLawful := by
  unfold Obligations.ResetIsLawful
  exact rxLawful_resetFrom (r := RxUnit.reset) rfl rfl

/-! ### RX.START and RX.IDLE keep R38 -/

/-- The give-up keeps the parts of R38 that do not speak of a busy unit, and needs what item 6 asks of its cause
(R195). -/
theorem rxLawful_giveUp {c : Config} {r : RxUnit} {k : Cause} (hk : k ≠ .none) (hbytes : r.byteCnt.toNat ≤ c.byteCap)
    (hlen : r.accLen.toNat ≤ accCap c) (hcap : k = .byteCap → r.byteCnt.toNat = c.byteCap)
    (hlim : k = .waitLimit → r.waitLim.toNat ≤ r.waitCnt.toNat ∧ 1 ≤ r.waitCnt.toNat)
    (hwait : r.waitCnt.toNat ≤ max r.waitLim.toNat 1) (hwf : Memory.wf r.acc = true)
    (hin : Memory.within (accCap c) r.acc = true) : RxLawful c (giveUp k r) where
  bytesCapped := hbytes
  busyBelowCap := by simp [RxUnit.busy]
  openFrame := by simp
  completeFrame := by simp
  lenCapped := hlen
  seekingEmpty := by simp
  causeIffExhausted := by simp [hk]
  byteCapCause := hcap
  waitLimitCause := hlim
  busyBelowLimit := by simp [RxUnit.busy]
  waitBounded := hwait
  idleClear := by simp
  accCanonical := hwf
  accWithin := hin

/-- A fresh invocation meets R38 (R121). -/
theorem RxLawful.lawful_startInvocation {c : Config} {r : RxUnit} (hl : RxLawful c r) (hc : c.CapFits) (n : Wait) :
    RxLawful c (startInvocation n r) := by
  have hcap : 0 < c.byteCap := Nat.lt_of_lt_of_le Nat.two_pos hc.1
  constructor <;> simp [hl.accCanonical, hl.accWithin, hcap]

/-- A busy unit is in no state that is not busy. -/
theorem state_ne_of_busy {r : RxUnit} {S : RxState} (hb : r.busy = true) (hS : (goto S r).busy = false) :
    r.state ≠ S := by
  rintro rfl
  exact Bool.noConfusion (hb.symm.trans hS)

/-- A busy unit has no cause (item 5). -/
theorem RxLawful.cause_of_busy {c : Config} {r : RxUnit} (hl : RxLawful c r) (hb : r.busy = true) :
    r.cause = .none := by
  by_contra hne
  exact state_ne_of_busy hb rfl (hl.causeIffExhausted.1 hne)

/-- While busy another idle poll does not overflow `wait_cnt`: it counts to the limit, or to 1 where the limit is 0
(item 7). -/
theorem RxLawful.idle_count {c : Config} {r : RxUnit} (hl : RxLawful c r) (hb : r.busy = true) :
    (r.waitCnt + 1).toNat = r.waitCnt.toNat + 1 ∧ r.waitCnt.toNat + 1 ≤ max r.waitLim.toNat 1 := by
  have hlim : r.waitLim.toNat < 256 := r.waitLim.isLt
  have hbelow : r.waitCnt.toNat < r.waitLim.toNat ∨ r.waitCnt.toNat = 0 :=
    (hl.busyBelowLimit hb).imp_right fun h => by simp [h]
  have hadd : (r.waitCnt + 1).toNat = (r.waitCnt.toNat + 1) % 256 := by simp [BitVec.toNat_add]
  omega

/-- An idle poll while busy keeps R38: below the limit only the count rises, and at the limit the give-up's cause is
justified by the count it has just raised (R133). -/
theorem RxLawful.lawful_idlePoll {c : Config} {r : RxUnit} (hl : RxLawful c r) (hb : r.busy = true) :
    RxLawful c (idlePoll r) := by
  obtain ⟨hcount, hmax⟩ := hl.idle_count hb
  by_cases hlim : r.waitLim.toNat ≤ r.waitCnt.toNat + 1
  · rw [idlePoll_at_limit hlim]
    refine rxLawful_giveUp (by decide) hl.bytesCapped hl.lenCapped (fun h => Cause.noConfusion h) (fun _ => ?_) ?_
      hl.accCanonical hl.accWithin <;> dsimp only <;> omega
  · rw [idlePoll_below_limit (by omega)]
    exact { hl with
      waitLimitCause := fun h => by simp [hl.cause_of_busy hb] at h
      busyBelowLimit := fun _ => .inl (by dsimp only; omega)
      waitBounded := by dsimp only; omega
      idleClear := fun h => absurd h (state_ne_of_busy hb rfl) }

/-! ### RX.BYTE keeps R38 -/

/-- The registers between the arm of an RX.BYTE step and its byte-cap check (R123): R38, but that `byte_cnt` of a busy
unit may have come to the cap. -/
structure RxCounted (c : Config) (r : RxUnit) : Prop where
  inInvocation : r.busy = true ∨ r.state = .complete
  bytesCapped : r.byteCnt.toNat ≤ c.byteCap
  openFrame : r.state = .inframe ∨ r.state = .escFrame → r.accLen.toNat + 1 ≤ r.byteCnt.toNat
  completeFrame : r.state = .complete → r.accLen.toNat + 2 ≤ r.byteCnt.toNat
  lenCapped : r.accLen.toNat ≤ accCap c
  seekingEmpty : r.state = .seeking ∨ r.state = .escSeek → r.accLen = 0#6
  noCause : r.cause = .none
  belowLimit : r.waitCnt.toNat < r.waitLim.toNat ∨ r.waitCnt = 0#8
  accCanonical : Memory.wf r.acc = true
  accWithin : Memory.within (accCap c) r.acc = true

theorem RxCounted.waitBounded {c : Config} {r : RxUnit} (h : RxCounted c r) :
    r.waitCnt.toNat ≤ max r.waitLim.toNat 1 := by
  obtain hlt | hz := h.belowLimit
  · omega
  · simp [hz]

theorem RxCounted.state_ne {c : Config} {r : RxUnit} (h : RxCounted c r) : r.state ≠ .idle ∧ r.state ≠ .exhausted := by
  obtain hb | hs := h.inInvocation
  · exact ⟨state_ne_of_busy hb rfl, state_ne_of_busy hb rfl⟩
  · simp [hs]

/-- The byte-cap check restores R38: a unit that is still busy below the cap meets it as it is, a frame that is complete
does so at the cap too, and at the cap the give-up is due to the byte cap (R132). -/
theorem RxCounted.lawful_capCheck {c : Config} {r : RxUnit} (h : RxCounted c r) : RxLawful c (capCheck c r) := by
  obtain ⟨hidle, hexh⟩ := h.state_ne
  obtain ⟨he, hgo⟩ | ⟨he, -, hcap⟩ := capCheck_cases c r
  · rw [he]
    exact {
      bytesCapped := h.bytesCapped
      busyBelowCap := fun hb =>
        Nat.lt_of_le_of_ne h.bytesCapped (hgo.resolve_left (state_ne_of_busy hb rfl))
      openFrame := h.openFrame
      completeFrame := h.completeFrame
      lenCapped := h.lenCapped
      seekingEmpty := h.seekingEmpty
      causeIffExhausted := by simp [h.noCause, hexh]
      byteCapCause := by simp [h.noCause]
      waitLimitCause := by simp [h.noCause]
      busyBelowLimit := fun _ => h.belowLimit
      waitBounded := h.waitBounded
      idleClear := fun hs => absurd hs hidle
      accCanonical := h.accCanonical
      accWithin := h.accWithin }
  · rw [he]
    exact rxLawful_giveUp (by decide) h.bytesCapped h.lenCapped (fun _ => hcap) (fun hw => Cause.noConfusion hw)
      h.waitBounded h.accCanonical h.accWithin

/-- A change of `rx_state` alone, to a state whose items 3 and 4 hold of the registers. -/
theorem RxCounted.counted_goto {c : Config} {r : RxUnit} (h : RxCounted c r) (S : RxState)
    (hin : (goto S r).busy = true ∨ S = .complete)
    (hopen : S = .inframe ∨ S = .escFrame → r.accLen.toNat + 1 ≤ r.byteCnt.toNat)
    (hcomplete : S = .complete → r.accLen.toNat + 2 ≤ r.byteCnt.toNat)
    (hseek : S = .seeking ∨ S = .escSeek → r.accLen = 0#6) : RxCounted c (goto S r) :=
  { h with inInvocation := hin, openFrame := hopen, completeFrame := hcomplete, seekingEmpty := hseek }

/-- The start marker opens an empty frame: the marker itself is counted and not appended (R124). -/
theorem RxCounted.counted_openFrame {c : Config} {r : RxUnit} (h : RxCounted c r) (hpos : 1 ≤ r.byteCnt.toNat) :
    RxCounted c { r with state := .inframe, accLen := 0#6 } :=
  { h with
    inInvocation := .inl rfl
    openFrame := fun _ => by simpa using hpos
    completeFrame := by simp
    lenCapped := by simp
    seekingEmpty := by simp }

/-- Inside a frame the byte just counted leaves room for its append (item 3; R130, R131). -/
theorem RxCounted.counted_append {c : Config} {r : RxUnit} (h : RxCounted c r)
    (hs : r.state = .inframe ∨ r.state = .escFrame) (hroom : r.accLen.toNat + 2 ≤ r.byteCnt.toNat) (b : Byte) :
    RxCounted c (append b r) := by
  have hbytes : r.byteCnt.toNat ≤ c.byteCap := h.bytesCapped
  have hwidth : r.byteCnt.toNat < 64 := r.byteCnt.isLt
  have hadd : (r.accLen + 1).toNat = r.accLen.toNat + 1 := by
    have : (r.accLen + 1).toNat = (r.accLen.toNat + 1) % 64 := by simp [BitVec.toNat_add]
    omega
  have hcell : r.accLen.toNat + 1 ≤ accCap c := by unfold accCap; omega
  exact { h with
    openFrame := fun _ => by simp only [append_accLen, append_byteCnt, hadd]; omega
    completeFrame := fun hq => by obtain hs | hs := hs <;> simp [hs] at hq
    lenCapped := by simpa only [append_accLen, hadd] using hcell
    seekingEmpty := fun hq => by obtain hs | hs := hs <;> simp [hs] at hq
    accCanonical := Memory.wf_write h.accCanonical _ _
    accWithin := Memory.within_write hcell h.accWithin }

/-- While busy the count of a byte does not overflow `byte_cnt`. -/
theorem RxLawful.byteCnt_count {c : Config} {r : RxUnit} (hl : RxLawful c r) (hc : c.CapFits) (hb : r.busy = true) :
    (r.byteCnt + 1).toNat = r.byteCnt.toNat + 1 := by
  have hbelow : r.byteCnt.toNat < c.byteCap := hl.busyBelowCap hb
  have hfits : c.byteCap < 64 := hc.2
  have : (r.byteCnt + 1).toNat = (r.byteCnt.toNat + 1) % 64 := by simp [BitVec.toNat_add]
  omega

/-- A counted byte leaves a busy unit between its arm and the cap check (R123). -/
theorem RxLawful.counted_countByte {c : Config} {r : RxUnit} (hl : RxLawful c r) (hc : c.CapFits) (hb : r.busy = true) :
    RxCounted c (countByte c r) := by
  have hcount : (r.byteCnt + 1).toNat = r.byteCnt.toNat + 1 := hl.byteCnt_count hc hb
  exact {
    inInvocation := .inl hb
    bytesCapped := by
      have := hl.busyBelowCap hb
      simp only [countByte_byteCnt, hcount]; omega
    openFrame := fun hs => by
      have := hl.openFrame hs
      simp only [countByte_byteCnt, countByte_accLen, hcount]; omega
    completeFrame := fun hs => absurd hs (state_ne_of_busy hb rfl)
    lenCapped := hl.lenCapped
    seekingEmpty := hl.seekingEmpty
    noCause := hl.cause_of_busy hb
    belowLimit := by
      cases hw : c.waitReloadOnByte with
      | true => simp [hw]
      | false => simpa [hw] using hl.busyBelowLimit hb
    accCanonical := hl.accCanonical
    accWithin := hl.accWithin }

/-- Every arm of RX.BYTE keeps the counted registers: one case per busy state and byte class (R124 to R131). -/
theorem RxLawful.counted_byteArm {c : Config} {r : RxUnit} (hl : RxLawful c r) (hc : c.CapFits) (hb : r.busy = true)
    (b : Byte) : RxCounted c (byteArm c r.state b (countByte c r)) := by
  have hk : RxCounted c (countByte c r) := hl.counted_countByte hc hb
  have hcount : (countByte c r).byteCnt.toNat = r.byteCnt.toNat + 1 := hl.byteCnt_count hc hb
  have hroom : r.state = .inframe ∨ r.state = .escFrame →
      (countByte c r).accLen.toNat + 2 ≤ (countByte c r).byteCnt.toNat := fun hs => by
    have := hl.openFrame hs
    rw [hcount, countByte_accLen]; omega
  obtain hs | hs | hs | hs := r.busy_iff.1 hb
  · rw [hs]
    simp only [byteArm]
    split
    · exact hk.counted_openFrame (by omega)
    · split
      · exact hk.counted_goto .escSeek (.inl rfl) (by simp) (by simp) fun _ => hl.seekingEmpty (.inl hs)
      · exact hk
  · rw [hs]
    simp only [byteArm]
    split
    · exact hk.counted_goto .complete (.inr rfl) (by simp) (fun _ => hroom (.inl hs)) (by simp)
    · split
      · exact hk.counted_goto .escFrame (.inl rfl) (fun _ => hk.openFrame (.inl hs)) (by simp) (by simp)
      · exact hk.counted_append (.inl hs) (hroom (.inl hs)) b
  · rw [hs]
    exact hk.counted_goto .seeking (.inl rfl) (by simp) (by simp) fun _ => hl.seekingEmpty (.inr hs)
  · rw [hs]
    have happ : RxCounted c (append b (countByte c r)) := hk.counted_append (.inr hs) (hroom (.inr hs)) b
    exact happ.counted_goto .inframe (.inl rfl) (fun _ => happ.openFrame (.inr hs)) (by simp) (by simp)

/-! ### A step keeps R38 -/

/-- Every event of R138 keeps R38, for every configuration whose cap fits its register. -/
theorem RxLawful.lawful_rxStep {c : Config} {r : RxUnit} (hl : RxLawful c r) (hc : c.CapFits) (e : RxEvent) :
    RxLawful c (rxStep c r e) := by
  cases hb : r.busy with
  | false =>
    rw [rxStep_of_not_busy hb]
    cases e with
    | start n => exact hl.lawful_startInvocation hc n
    | byte _ => exact hl
    | idle => exact hl
  | true =>
    cases e with
    | start n => rw [rxStep_start_of_busy hb]; exact hl
    | byte b => rw [rxStep_byte_of_busy hb]; exact (hl.counted_byteArm hc hb b).lawful_capCheck
    | idle => rw [rxStep_idle_of_busy hb]; exact hl.lawful_idlePoll hb

/-- An operation changes the RX registers by one event or not at all, so it keeps R38. -/
theorem exec_keeps_lawful {i : Instr} {s t : State} (hl : Lawful s) (h : exec i s = .next t) : Lawful t := by
  have hstep : ∀ e, t.rx = rxStep dali s.rx e → Lawful t := fun e he => by
    unfold Lawful; rw [he]; exact hl.lawful_rxStep dali_capFits e
  obtain ⟨-, hr | ⟨n, -, hr⟩ | ⟨-, hr⟩⟩ | ⟨b, -, -, hr, -⟩ := exec_rx_cases h
  · unfold Lawful; rw [hr]; exact hl
  · exact hstep _ hr
  · exact hstep _ hr
  · exact hstep _ hr

/-- Settles O44: a step is a reset edge, leaves the RX registers alone, or runs one operation. -/
theorem everyStepKeepsLawful : Obligations.EveryStepKeepsLawful := by
  unfold Obligations.EveryStepKeepsLawful
  intro s t hl h
  obtain ⟨-, hr, -⟩ | ⟨-, hr, -⟩ | ⟨hr, -⟩ | ⟨w, i, -, -, hexec, -⟩ := step_cases h
  · unfold Lawful; rw [hr]; exact rxLawful_resetFrom hl.accCanonical hl.accWithin
  · unfold Lawful; rw [hr]; exact hl
  · unfold Lawful; rw [hr]; exact hl
  · exact exec_keeps_lawful (s := s.advance) hl hexec

/-! ### Only an append writes the accumulator -/

/-- Only the two states inside a frame append (R130, R131). -/
theorem appends_of_outside_frame {r : RxUnit} (hi : r.state ≠ .inframe) (he : r.state ≠ .escFrame) (c : Config)
    (b : Byte) : r.appends c b = false := by
  cases hs : r.state with
  | inframe => exact absurd hs hi
  | escFrame => exact absurd hs he
  | idle | seeking | escSeek | complete | exhausted => simp [RxUnit.appends, hs]

/-- An arm writes `acc` only where the state appends the byte, and then in the cell `acc_len` (R24). -/
theorem byteArm_acc (c : Config) (b : Byte) (r : RxUnit) :
    (byteArm c r.state b (countByte c r)).acc =
      if r.appends c b then Memory.write r.acc r.accLen.toNat b else r.acc := by
  cases hs : r.state with
  | inframe =>
    by_cases hstop : b = c.stop
    · simp [byteArm, RxUnit.appends, hs, hstop]
    · by_cases hesc : b = c.esc
      · subst hesc
        simp [byteArm, RxUnit.appends, hs, hstop]
      · simp [byteArm, RxUnit.appends, hs, hstop, hesc]
  | escFrame => simp [byteArm, RxUnit.appends, hs]
  | seeking =>
    rw [appends_of_outside_frame (by simp [hs]) (by simp [hs])]
    simp only [byteArm]
    split
    · rfl
    · split <;> rfl
  | escSeek | idle | complete | exhausted => simp [byteArm, RxUnit.appends, hs]

theorem rxStep_byte_acc (c : Config) (b : Byte) (r : RxUnit) :
    (rxStep c r (.byte b)).acc = if r.appends c b then Memory.write r.acc r.accLen.toNat b else r.acc := by
  cases hb : r.busy with
  | true => rw [rxStep_byte_of_busy hb, byteStep, capCheck_acc, byteArm_acc]
  | false =>
    have hout : r.appends c b = false := by
      obtain hs | hs | hs := r.not_busy_iff.1 hb <;> simp [RxUnit.appends, hs]
    simp [rxStep_of_not_busy hb, hout]

theorem rxStep_start_acc (c : Config) (n : Wait) (r : RxUnit) : (rxStep c r (.start n)).acc = r.acc := by
  cases hb : r.busy with
  | true => rw [rxStep_start_of_busy hb]
  | false => rw [rxStep_of_not_busy hb, startInvocation_acc]

theorem rxStep_idle_acc (c : Config) (r : RxUnit) : (rxStep c r .idle).acc = r.acc := by
  cases hb : r.busy with
  | true => rw [rxStep_idle_of_busy hb, idlePoll_acc]
  | false => rw [rxStep_of_not_busy hb]

/-- A step around an arm that leaves `acc` alone leaves it alone. -/
theorem byteStep_acc {c : Config} {arm : RxUnit → RxUnit} (harm : ∀ r, (arm r).acc = r.acc) (r : RxUnit) :
    (byteStep c arm r).acc = r.acc := by
  rw [byteStep, capCheck_acc, harm, countByte_acc]

/-- An operation leaves `acc` alone, or takes the queue's oldest byte and writes `acc` as that byte does. -/
theorem exec_acc_cases {i : Instr} {s t : State} (h : exec i s = .next t) :
    t.rx.acc = s.rx.acc ∨
      ∃ b, s.wireIn ++ i.delivers s = b :: t.wireIn ∧ s.rx.appends dali b = true ∧
        t.rx.acc = Memory.write s.rx.acc s.rx.accLen.toNat b := by
  obtain ⟨-, hr | ⟨n, -, hr⟩ | ⟨-, hr⟩⟩ | ⟨b, -, hq, hr, -⟩ := exec_rx_cases h
  · exact .inl (by rw [hr])
  · exact .inl (by rw [hr, rxStep_start_acc])
  · exact .inl (by rw [hr, rxStep_idle_acc])
  · cases ha : s.rx.appends dali b with
    | false => exact .inl (by rw [hr, rxStep_byte_acc, ha]; rfl)
    | true => exact .inr ⟨b, hq, ha, by rw [hr, rxStep_byte_acc, ha]; rfl⟩

/-- Every operation but the two appending rows and the wire bytes leaves `acc` alone. -/
theorem exec_acc_of_other_row {i : Instr} {s t : State} (h : exec i s = .next t)
    (hother : ∀ b, i ≠ .rxByteInframeOther b) (hesc : ∀ b, i ≠ .rxByteEscFrame b)
    (hwire : (encode i).format ≠ .wire) : t.rx.acc = s.rx.acc := by
  cases i with
  | wireStart | wireStop | wireEsc | wireLiteral => exact absurd rfl hwire
  | rxByteInframeOther b => exact absurd rfl (hother b)
  | rxByteEscFrame b => exact absurd rfl (hesc b)
  | rxByteSeekingStart | rxByteSeekingEsc | rxByteSeekingOther | rxByteEscSeek | rxByteInframeStop | rxByteInframeEsc =>
    simp only [exec, execRxByteSeekingStart, execRxByteSeekingEsc, execRxByteSeekingOther, execRxByteEscSeek,
      execRxByteInframeStop, execRxByteInframeEsc] at h
    split at h <;> cases h
    · exact byteStep_acc (by intro _; rfl) _
    · rfl
  | rxStart n => cases h; exact rxStep_start_acc dali n s.rx
  | rxIdle => cases h; exact rxStep_idle_acc dali s.rx
  | rxNone | rxRead | status => cases h; rfl
  | msgDaliCommand | msgDaliRcv1Bytes | msgDaliRcv2Bytes | msgTimeframeExpired | msgInvalidDaliFrame | msgEcho |
      msgUnknown =>
    cases h
    split <;> rfl
  | txBegin | txDrain | txEnd | txReserved =>
    simp only [exec, execTxBegin, execTxDrain, execTxEnd, execTxReserved] at h
    split at h <;> cases h <;> rfl
  | txDataLiteral | txDataMarker =>
    simp only [exec, execTxDataLiteral, execTxDataMarker] at h
    split at h
    · cases h; rfl
    · split at h <;> cases h <;> rfl

/-- Settles O49: where `acc` changes, a byte was taken that the state appends, and it was written in the cell
`acc_len`. -/
theorem onlyAppendWritesTheAccumulator : Obligations.OnlyAppendWritesTheAccumulator := by
  unfold Obligations.OnlyAppendWritesTheAccumulator
  intro i s t h
  refine ⟨?_, ?_, exec_acc_of_other_row h, ?_⟩
  · intro a ha
    obtain heq | ⟨b, -, -, heq⟩ := exec_acc_cases h
    · rw [heq]
    · rw [heq, Memory.read_write_of_ne ha]
  · intro hi he
    obtain heq | ⟨b, -, happ, -⟩ := exec_acc_cases h
    · exact heq
    · simp [appends_of_outside_frame hi he] at happ
  · intro hnone
    obtain heq | ⟨b, hq, happ, -⟩ := exec_acc_cases h
    · exact heq
    · simp [hnone b t.wireIn hq] at happ

/-! ### The four wire rows -/

/-- Each wire row is the delivery of its byte (R70; assumption 8). -/
theorem exec_wireRow {i : Instr} {b : Byte} (h : (i = .wireStart ∧ b = 0x7C#8) ∨ (i = .wireStop ∧ b = 0x7D#8) ∨
    (i = .wireEsc ∧ b = 0x7E#8) ∨ i = .wireLiteral b) (s : State) : exec i s = deliverByte dali b s := by
  obtain ⟨rfl, rfl⟩ | ⟨rfl, rfl⟩ | ⟨rfl, rfl⟩ | rfl := h <;> rfl

/-- Settles O33: that delivery and consumption are one step is the model's choice (assumption 8). -/
theorem wireBytesReachTheUnstuffer : Obligations.WireBytesReachTheUnstuffer := by
  unfold Obligations.WireBytesReachTheUnstuffer
  intro i b hrow s
  rw [exec_wireRow hrow]
  refine ⟨deliverByte_of_not_busy, fun hb hroom => ?_⟩
  rw [deliverByte_of_busy hb, consumeByte_of_room hroom]
  rfl

end Sys2Proof
end

section
/-! PROOFS, 20_memory.md. Which fields each row of the opcode table can touch, in three lemmas over all rows (TX rows,
rows of the host's samples, all rows but TX); from these the frame of every operation, the order of the wire bytes, and
that a TX cycle commutes with the rest. -/

namespace Sys2Proof.Machine

/-! ### A run of TX cycles -/

/-- The bytes that a cycle emits are put before those of the cycles after it. -/
theorem txEmitted_cons (c : Config) (t : TxUnit) (i : TxIn) (run : List TxIn) :
    txEmitted c t (i :: run) = txEmits c t i ++ txEmitted c (txCycle c t i) run := rfl

theorem txAfter_cons (c : Config) (t : TxUnit) (i : TxIn) (run : List TxIn) :
    txAfter c t (i :: run) = txAfter c (txCycle c t i) run := rfl

/-- Settles O16, by induction on the run: its first step is the port level's cycle (`step_tx`), which leaves the RX
side alone. -/
theorem txRunIsThePortRun : Obligations.TxRunIsThePortRun := by
  unfold Obligations.TxRunIsThePortRun
  intro run
  induction run with
  | nil =>
    intro s rest hscript
    exact ⟨s, rfl, rfl, (List.append_nil _).symm, rfl, rfl, hscript⟩
  | cons i run ih =>
    intro s rest hscript
    have hstep : step s = .next (s.advance.afterTxCycle i) := step_tx (State.offer_of_cons hscript)
    have hrest : (s.advance.afterTxCycle i).script = run.map .tx ++ rest := by
      simp [State.afterTxCycle, hscript]
    obtain ⟨t, hrun, htx, hout, hrx, hin, hend⟩ := ih _ rest hrest
    refine ⟨t, (runSteps_next run.length hstep).trans hrun, ?_, ?_, hrx, hin, hend⟩
    · rw [htx, txAfter_cons]; rfl
    · rw [hout, txEmitted_cons, ← List.append_assoc]; rfl

/-! ### What each row can touch -/

/-- The outcome with its next state changed by `f`; a fault or a refusal stays. -/
def mapNext (f : State → State) : Host.Outcome State Fault Refusal → Host.Outcome State Fault Refusal
  | .next s => .next (f s)
  | .fault r => .fault r
  | .refused r => .refused r

@[simp] theorem mapNext_next (f : State → State) (s : State) : mapNext f (.next s) = .next (f s) := rfl

theorem mapNext_ite (f : State → State) (p : Prop) [Decidable p] (x y : Host.Outcome State Fault Refusal) :
    mapNext f (if p then x else y) = if p then mapNext f x else mapNext f y := apply_ite ..

/-- The state with the RX registers, the queue and the host's other samples of `s`, and all that the TX unit and the
environment write (the TX registers, the outbound stream, the TX handshake, the script) taken from `u`. -/
def State.withTxSide (s u : State) : State :=
  { s with
    tx := u.tx
    wireOut := u.wireOut
    host := { s.host with txReady := u.host.txReady, txErr := u.host.txErr }
    script := u.script }

theorem State.withTxSide_self (s : State) : s.withTxSide s = s := rfl

theorem State.ite_withTxSide (p : Prop) [Decidable p] (s t u : State) :
    (if p then s else t).withTxSide u = if p then s.withTxSide u else t.withTxSide u := apply_ite (·.withTxSide u) p s t

theorem consumeByte_withTxSide (c : Config) (b : Byte) (s u : State) :
    consumeByte c b (s.withTxSide u) = mapNext (·.withTxSide u) (consumeByte c b s) := by
  simp only [consumeByte, mapNext_ite]
  rfl

theorem deliverByte_withTxSide (c : Config) (b : Byte) (s u : State) :
    deliverByte c b (s.withTxSide u) = mapNext (·.withTxSide u) (deliverByte c b s) := by
  cases hb : s.rx.busy with
  | false => rw [deliverByte_of_not_busy hb, deliverByte_of_not_busy (s := s.withTxSide u) hb]; rfl
  | true =>
    rw [deliverByte_of_busy hb, deliverByte_of_busy (s := s.withTxSide u) hb]
    exact consumeByte_withTxSide c _ { s with wireIn := s.wireIn ++ [b] } u

/-- Every row but the TX rows neither reads nor writes what the TX unit and the environment write (R59). -/
theorem exec_withTxSide {i : Instr} (hi : (encode i).format ≠ .txItem) (s u : State) :
    exec i (s.withTxSide u) = mapNext (·.withTxSide u) (exec i s) := by
  cases i with
  | wireStart | wireStop | wireEsc | wireLiteral => exact deliverByte_withTxSide dali _ s u
  | msgDaliCommand | msgDaliRcv1Bytes | msgDaliRcv2Bytes | msgTimeframeExpired | msgInvalidDaliFrame | msgEcho |
      msgUnknown =>
    simp only [exec, execMsgDaliCommand, execMsgDaliRcv1Bytes, execMsgDaliRcv2Bytes, execMsgTimeframeExpired,
      execMsgInvalidDaliFrame, execMsgEcho, execMsgUnknown, mapNext_next, State.ite_withTxSide]
    rfl
  | status | rxStart | rxIdle | rxNone | rxRead => rfl
  | txBegin | txDataLiteral | txDataMarker | txDrain | txEnd | txReserved => exact absurd rfl hi
  | rxByteSeekingStart | rxByteSeekingEsc | rxByteSeekingOther | rxByteEscSeek | rxByteInframeStop | rxByteInframeEsc |
      rxByteInframeOther | rxByteEscFrame =>
    simp only [exec, execRxByteSeekingStart, execRxByteSeekingEsc, execRxByteSeekingOther, execRxByteEscSeek,
      execRxByteInframeStop, execRxByteInframeEsc, execRxByteInframeOther, execRxByteEscFrame, mapNext_ite]
    rfl

/-- Every row but the TX rows leaves the TX registers, the outbound stream and the script as they were. -/
theorem exec_keeps_txSide {i : Instr} {s t : State} (hi : (encode i).format ≠ .txItem) (h : exec i s = .next t) :
    t.tx = s.tx ∧ t.wireOut = s.wireOut ∧ t.script = s.script := by
  have hself := exec_withTxSide hi s s
  rw [State.withTxSide_self, h, mapNext_next, Host.Outcome.next.injEq] at hself
  rw [hself]
  exact ⟨rfl, rfl, rfl⟩

/-- What a TX row can do: write the TX registers, `tx_hold` only by the marker form (R22); emit bytes; and show the host
something. -/
def TxRowEffect (i : Instr) (s t : State) : Prop :=
  ∃ (S : TxState) (hold : Byte) (out : List Byte) (view : HostView),
    t = { s with tx := ⟨S, hold⟩, wireOut := s.wireOut ++ out, host := view } ∧
      (hold = s.tx.hold ∨ i = .txDataMarker hold)

theorem txRowEffect_self (i : Instr) (s : State) : TxRowEffect i s s :=
  ⟨s.tx.state, s.tx.hold, [], s.host, by rw [List.append_nil], .inl rfl⟩

theorem txRowEffect_sample (i : Instr) (s : State) (ready err : Bool) : TxRowEffect i s (s.txSample ready err) :=
  ⟨s.tx.state, s.tx.hold, [], _, by rw [List.append_nil]; rfl, .inl rfl⟩

theorem txRowEffect_emit (i : Instr) (s : State) (b : Byte) (S : TxState) (ready err : Bool) :
    TxRowEffect i s ((s.emit b { s.tx with state := S }).txSample ready err) :=
  ⟨S, s.tx.hold, [b], _, rfl, .inl rfl⟩

/-- Everything a TX row does is a `TxRowEffect`: one case per row and `tx_state` (R101 to R106). -/
theorem exec_txRow {i : Instr} {s t : State} (hi : (encode i).format = .txItem) (h : exec i s = .next t) :
    TxRowEffect i s t := by
  cases i with
  | txBegin =>
    simp only [exec, execTxBegin] at h
    split at h <;> cases h
    · exact txRowEffect_emit ..
    · exact txRowEffect_sample ..
    · exact txRowEffect_sample ..
  | txDataLiteral =>
    simp only [exec, execTxDataLiteral] at h
    split at h
    · cases h; exact txRowEffect_self ..
    · split at h <;> cases h
      · exact txRowEffect_emit ..
      · exact txRowEffect_sample ..
      · exact txRowEffect_sample ..
  | txDataMarker b =>
    simp only [exec, execTxDataMarker] at h
    split at h
    · cases h; exact txRowEffect_self ..
    · split at h <;> cases h
      · exact ⟨.esc2, b, [dali.esc], _, rfl, .inr rfl⟩
      · exact txRowEffect_sample ..
      · exact txRowEffect_sample ..
  | txDrain =>
    simp only [exec, execTxDrain] at h
    split at h <;> cases h
    · exact txRowEffect_emit ..
    · exact txRowEffect_self ..
    · exact txRowEffect_self ..
  | txEnd =>
    simp only [exec, execTxEnd] at h
    split at h <;> cases h
    · exact txRowEffect_emit ..
    · exact txRowEffect_sample ..
    · exact txRowEffect_sample ..
  | txReserved =>
    simp only [exec, execTxReserved] at h
    split at h <;> cases h <;> exact txRowEffect_sample ..
  | wireStart | wireStop | wireEsc | wireLiteral | msgDaliCommand | msgDaliRcv1Bytes | msgDaliRcv2Bytes |
      msgTimeframeExpired | msgInvalidDaliFrame | msgEcho | msgUnknown | status | rxStart | rxByteSeekingStart |
      rxByteSeekingEsc | rxByteSeekingOther | rxByteEscSeek | rxByteInframeStop | rxByteInframeEsc |
      rxByteInframeOther | rxByteEscFrame | rxIdle | rxNone | rxRead => exact Format.noConfusion hi

/-- The rows that are neither TX rows, RX events nor wire bytes (the parser's, STATUS and RX.READ) write nothing but what
the host has sampled (R136, R171, R172). -/
theorem exec_hostRow {i : Instr} {s t : State} (htx : (encode i).format ≠ .txItem) (hw : (encode i).format ≠ .wire)
    (hrx : (encode i).format ≠ .rxEvent) (h : exec i s = .next t) : ∃ view, t = { s with host := view } := by
  cases i with
  | msgDaliCommand | msgDaliRcv1Bytes | msgDaliRcv2Bytes | msgTimeframeExpired | msgInvalidDaliFrame | msgEcho |
      msgUnknown =>
    cases h
    split <;> exact ⟨_, rfl⟩
  | status | rxRead => cases h; exact ⟨_, rfl⟩
  | txBegin | txDataLiteral | txDataMarker | txDrain | txEnd | txReserved => exact absurd rfl htx
  | wireStart | wireStop | wireEsc | wireLiteral => exact absurd rfl hw
  | rxStart | rxByteSeekingStart | rxByteSeekingEsc | rxByteSeekingOther | rxByteEscSeek | rxByteInframeStop |
      rxByteInframeEsc | rxByteInframeOther | rxByteEscFrame | rxIdle | rxNone => exact absurd rfl hrx

/-- `wait_lim` is written by RX.START alone: neither a byte nor an idle poll writes it (R28). -/
theorem exec_waitLim {i : Instr} {s t : State} (hi : ∀ n, i ≠ .rxStart n) (h : exec i s = .next t) :
    t.rx.waitLim = s.rx.waitLim := by
  obtain ⟨-, hr | ⟨n, he, -⟩ | ⟨-, hr⟩⟩ | ⟨b, -, -, hr, -⟩ := exec_rx_cases h
  · rw [hr]
  · exact absurd he (hi n)
  · rw [hr, rxStep_idle_waitLim]
  · rw [hr, rxStep_byte_waitLim]

/-- Settles O48: a TX row does what `TxRowEffect` says, and every other row leaves the TX side alone. -/
theorem registersAreWrittenOnlyByTheirOperations : Obligations.RegistersAreWrittenOnlyByTheirOperations := by
  unfold Obligations.RegistersAreWrittenOnlyByTheirOperations
  intro i s t h
  by_cases hf : (encode i).format = .txItem
  · have hlim := fun hi => exec_waitLim (i := i) hi h
    obtain ⟨S, hold, out, view, rfl, hhold⟩ := exec_txRow hf h
    exact ⟨List.prefix_append .., rfl, fun hne => absurd hf hne, fun hm => hhold.resolve_right (hm hold), hlim,
      fun _ _ => ⟨rfl, rfl⟩⟩
  · obtain ⟨htx, hout, hscript⟩ := exec_keeps_txSide hf h
    refine ⟨by rw [hout], hscript, fun _ => ⟨htx, hout⟩, fun _ => by rw [htx], fun hi => exec_waitLim hi h, ?_⟩
    intro hw hrx
    obtain ⟨view, rfl⟩ := exec_hostRow hf hw hrx h
    exact ⟨rfl, rfl⟩

/-! ### The order of the wire bytes -/

theorem State.delivered_of_word {s : State} {w : FetchWord} {i : Instr} (hf : fetch s = .word w)
    (hd : decode w = .ok i) : s.delivered = i.delivers s := by
  simp only [State.delivered, hf, hd]

/-- Where a byte is queued, an RX.BYTE row has nothing delivered (assumption 18). -/
theorem State.deliveredFor_of_queued {s : State} (hq : s.wireIn ≠ []) (S : RxState) (b : Byte) (wf : Bool) :
    s.deliveredFor S b wf = [] :=
  if_neg fun ⟨_, hw, _⟩ => hq hw

/-- The row of a wire byte delivers that byte (R70). -/
theorem delivers_decodeWire (b : Byte) (s : State) : (decodeWire b).delivers s = [b] := by
  unfold decodeWire
  split
  · rename_i hb; rw [hb]; rfl
  · split
    · rename_i hb; rw [hb]; rfl
    · split
      · rename_i hb; rw [hb]; rfl
      · rfl

theorem delivers_decodeHeader (h : Byte) (s : State) : (decodeHeader h).delivers s = [] := by
  unfold decodeHeader
  split_ifs <;> rfl

theorem delivers_decodeTx {q k : BitVec 2} {b : Byte} {i : Instr} (h : decodeTx q k b = .ok i) (s : State) :
    i.delivers s = [] := by
  unfold decodeTx at h
  split_ifs at h <;> cases h <;> rfl

theorem format_decodeRxByte (q : BitVec 3) (b : Byte) : (encode (decodeRxByte q b)).format = .rxEvent := by
  unfold decodeRxByte
  split_ifs <;> rfl

/-- An RX event delivers nothing where a byte is queued. -/
theorem delivers_of_queued {i : Instr} {s : State} (hi : (encode i).format = .rxEvent) (hq : s.wireIn ≠ []) :
    i.delivers s = [] := by
  cases i with
  | rxByteSeekingStart | rxByteSeekingEsc | rxByteSeekingOther | rxByteEscSeek | rxByteInframeStop | rxByteInframeEsc |
      rxByteInframeOther | rxByteEscFrame => exact State.deliveredFor_of_queued hq ..
  | rxStart | rxIdle | rxNone => rfl
  | wireStart | wireStop | wireEsc | wireLiteral | msgDaliCommand | msgDaliRcv1Bytes | msgDaliRcv2Bytes |
      msgTimeframeExpired | msgInvalidDaliFrame | msgEcho | msgUnknown | status | txBegin | txDataLiteral |
      txDataMarker | txDrain | txEnd | txReserved | rxRead => exact Format.noConfusion hi

/-- A TX cycle delivers nothing, whatever row it selects. -/
theorem State.delivered_of_tx {s : State} {i : TxIn} (ho : s.offer = .tx i) : s.delivered = [] := by
  have hfetch : fetch s = .word (txWord s.tx.state.code i.kind i.data) ∨ fetch s = .hold (s.tx.ready i) := by
    simp only [fetch, ho, fetchTx]
    cases s.tx.state <;> dsimp only <;> split <;> simp
  obtain hf | hf := hfetch
  · cases hd : decodeTx s.tx.state.code i.kind i.data with
    | ok j => rw [State.delivered_of_word hf ((decode_txWord ..).trans hd), delivers_decodeTx hd]
    | error r => simp only [State.delivered, hf, decode_txWord, hd]
  · simp only [State.delivered, hf]

/-- An RX cycle delivers nothing: it selects an RX.BYTE row only where a byte is queued (R122). -/
theorem State.delivered_of_rx {s : State} {start tick : Bool} {limit : Wait} (ho : s.offer = .rx start limit tick) :
    s.delivered = [] := by
  have hfetch : fetch s = fetchRx s.rx s.wireIn start limit tick := by simp only [fetch, ho]
  rw [State.delivered_of_word hfetch (decode_rxCycleWord ..)]
  split
  · rfl
  · split
    · rename_i hvalid
      exact delivers_of_queued (format_decodeRxByte ..) (by rintro hq; simp [hq] at hvalid)
    · split <;> rfl

/-- Settles O34: what an offer delivers is what the row it selects delivers, and a step that runs a row does to the RX unit
and the queue what `exec_rx_cases` says. -/
theorem wireBytesAreConsumedInOrder : Obligations.WireBytesAreConsumedInOrder := by
  unfold Obligations.WireBytesAreConsumedInOrder
  refine ⟨fun s b ho => ?_, fun s hwire hevent => ?_, fun s t hflush h => ?_⟩
  · rw [State.delivered_of_word (by simp only [fetch, ho]) (decode_wireWord b), delivers_decodeWire]
  · cases ho : s.offer with
    | tx i => exact State.delivered_of_tx ho
    | rx start limit tick => exact State.delivered_of_rx ho
    | wire b => exact absurd ho (hwire b)
    | read k => exact State.delivered_of_word (by simp only [fetch, ho]) (decode_readWord k)
    | parse =>
      have hfetch : fetch s = .word (.header (guardedRead s.rx.frame 0)) := by simp only [fetch, ho]
      rw [State.delivered_of_word hfetch (decode_headerWord _), delivers_decodeHeader]
    | status v => exact State.delivered_of_word (by simp only [fetch, ho]) (decode_statusWord v)
    | event w => exact absurd ho (hevent w)
    | rst | flush => simp only [State.delivered, fetch, ho]
  · obtain ⟨ho, hr, hw, hd⟩ | ⟨ho, -⟩ | ⟨hr, hw, hd⟩ | ⟨w, i, -, -, hexec, hd⟩ := step_cases h
    · exact .inl ⟨by rw [hw, hd, List.append_nil], .inr (.inr (.inr ⟨ho, hr⟩))⟩
    · exact absurd ho hflush
    · exact .inl ⟨by rw [hw, hd, List.append_nil], .inl hr⟩
    · have hcases := exec_rx_cases hexec
      rw [delivers_advance, ← hd] at hcases
      obtain ⟨hw, hr | ⟨n, -, hr⟩ | ⟨-, hr⟩⟩ | ⟨b, hb, hq, hr, -⟩ := hcases
      · exact .inl ⟨hw, .inl hr⟩
      · exact .inl ⟨hw, .inr (.inl ⟨n, hr⟩)⟩
      · exact .inl ⟨hw, .inr (.inr (.inl hr))⟩
      · exact .inr ⟨b, hb, hq, hr⟩

/-! ### A TX cycle commutes with the rest -/

theorem runSteps_one (s : State) : runSteps 1 s = step s := by
  simp only [runSteps]
  cases step s <;> rfl

/-- A step that ends in `g` of some state, and one more step that turns `g` of any state into `f` of it. -/
theorem runSteps_two_of_mapNext {s : State} {x : Host.Outcome State Fault Refusal} {f g : State → State}
    (hfirst : step s = mapNext g x) (hsecond : ∀ t, step (g t) = .next (f t)) : runSteps 2 s = mapNext f x := by
  cases x with
  | next t => rw [runSteps_next 1 hfirst, runSteps_one, hsecond]; rfl
  | fault r => exact runSteps_fault 1 hfirst
  | refused r => exact runSteps_refused 1 hfirst

/-- An offer to the RX unit, the wire source or the host. -/
def Offer.besideTx (o : Offer) : Prop :=
  (∃ start limit tick, o = .rx start limit tick) ∨ (∃ b, o = .wire b) ∨ (∃ k, o = .read k) ∨ o = .parse ∨
    (∃ v, o = .status v)

theorem format_decodeWire (b : Byte) : (encode (decodeWire b)).format = .wire := by
  unfold decodeWire
  split_ifs <;> rfl

theorem format_decodeHeader (h : Byte) : (encode (decodeHeader h)).format = .header := by
  unfold decodeHeader
  split_ifs <;> rfl

/-- Such an offer selects, by the RX registers and the queue alone, a row that is no TX row. -/
theorem step_besideTx {o : Offer} (ho : o.besideTx) (r : RxUnit) (queue : List Byte) :
    ∃ i, (encode i).format ≠ .txItem ∧
      ∀ s : State, s.offer = o → s.rx = r → s.wireIn = queue → step s = exec i s.advance := by
  obtain ⟨start, limit, tick, rfl⟩ | ⟨b, rfl⟩ | ⟨k, rfl⟩ | rfl | ⟨v, rfl⟩ := ho
  · have hfetch : ∀ s : State, s.offer = .rx start limit tick → s.rx = r → s.wireIn = queue →
        fetch s = fetchRx r queue start limit tick := fun s hs hr hq => by simp only [fetch, hs, hr, hq]
    refine ⟨_, ?_, fun s hs hr hq => step_of_word (hfetch s hs hr hq) (decode_rxCycleWord ..)⟩
    split
    · exact Format.noConfusion
    · split
      · rw [format_decodeRxByte]; exact Format.noConfusion
      · split <;> exact Format.noConfusion
  · exact ⟨decodeWire b, by rw [format_decodeWire]; exact Format.noConfusion, fun _ hs _ _ => step_wire hs⟩
  · exact ⟨.rxRead k, Format.noConfusion, fun _ hs _ _ => step_read hs⟩
  · refine ⟨decodeHeader (guardedRead r.frame 0), by rw [format_decodeHeader]; exact Format.noConfusion, ?_⟩
    rintro s hs rfl -
    exact step_parse hs
  · exact ⟨.status v, Format.noConfusion, fun _ hs _ _ => step_status hs⟩

/-- Settles O50: the two orders run the same row, before or after a TX cycle, on states that differ only in what the row
neither reads nor writes (`exec_withTxSide`). -/
theorem unitsCommute : Obligations.UnitsCommute := by
  unfold Obligations.UnitsCommute
  intro s j o rest ho
  obtain ⟨i, hi, hrow⟩ := step_besideTx ho s.rx s.wireIn
  have hrowFirst : step { s with script := o :: .tx j :: rest } =
      mapNext (·.withTxSide { s with script := .tx j :: rest }) (exec i s) := by
    rw [← exec_withTxSide hi]
    exact hrow _ rfl rfl rfl
  calc runSteps 2 { s with script := .tx j :: o :: rest }
    _ = exec i (s.withTxSide (State.afterTxCycle { s with script := rest } j)) := by
        rw [runSteps_next 1 (step_tx rfl), runSteps_one]
        exact hrow _ rfl rfl rfl
    _ = mapNext (·.withTxSide (State.afterTxCycle { s with script := rest } j)) (exec i s) := exec_withTxSide hi s _
    _ = runSteps 2 { s with script := o :: .tx j :: rest } :=
        (runSteps_two_of_mapNext hrowFirst fun _ => step_tx rfl).symm

end Sys2Proof.Machine
end

section
/-! PROOFS, 30_encoding.md. The decoder of each format, class by class; from these, decode after encode and the
well-formedness of what is decoded.  Then the table of header values. -/

namespace Sys2Proof

open Sys2Proof.Machine

/-! ### The operands of the rows that stand for a class -/

theorem wf_wireLiteral_iff (b : Byte) : (Instr.wireLiteral b).wf = true ↔ isMarker dali b = false := by
  simp only [Instr.wf, Bool.not_eq_true']

theorem wf_msgUnknown_iff (h : Byte) : (Instr.msgUnknown h).wf = true ↔ isKnownHeader dali h = false := by
  simp only [Instr.wf, Bool.not_eq_true']

theorem wf_txDataLiteral_iff (b : Byte) : (Instr.txDataLiteral b).wf = true ↔ isMarker dali b = false := by
  simp only [Instr.wf, Bool.not_eq_true']

theorem wf_txDataMarker_iff (b : Byte) : (Instr.txDataMarker b).wf = true ↔ isMarker dali b = true := Iff.rfl

theorem wf_rxByteSeekingOther_iff (b : Byte) :
    (Instr.rxByteSeekingOther b).wf = true ↔ b ≠ dali.start ∧ b ≠ dali.esc := by
  simp [Instr.wf]

theorem wf_rxByteInframeOther_iff (b : Byte) :
    (Instr.rxByteInframeOther b).wf = true ↔ b ≠ dali.stop ∧ b ≠ dali.esc := by
  simp [Instr.wf]

/-! ### Wire bytes and headers -/

theorem decodeWire_of_not_isMarker {b : Byte} (hb : isMarker dali b = false) : decodeWire b = .wireLiteral b := by
  obtain ⟨hstart, hstop, hesc⟩ := (not_isMarker_iff dali b).1 hb
  rw [decodeWire, if_neg hstart, if_neg hstop, if_neg hesc]

theorem wf_decodeWire (b : Byte) : (decodeWire b).wf = true := by
  cases hb : isMarker dali b with
  | false => rwa [decodeWire_of_not_isMarker hb, wf_wireLiteral_iff]
  | true => obtain rfl | rfl | rfl := (isMarker_iff dali b).1 hb <;> rfl

theorem isKnownHeader_iff (c : Config) (h : Byte) :
    isKnownHeader c h = true ↔ h = c.hDaliCommand ∨ h = c.hDaliRcv1Bytes ∨ h = c.hDaliRcv2Bytes ∨
      h = c.hTimeframeExpired ∨ h = c.hInvalidDaliFrame ∨ h = c.hEcho := by
  simp [isKnownHeader, or_assoc]

theorem decodeHeader_of_not_isKnownHeader {h : Byte} (hh : isKnownHeader dali h = false) :
    decodeHeader h = .msgUnknown h := by
  have hne := mt (isKnownHeader_iff dali h).2 (Bool.eq_false_iff.1 hh)
  simp only [not_or] at hne
  obtain ⟨h1, h2, h3, h4, h5, h6⟩ := hne
  rw [decodeHeader, if_neg h1, if_neg h2, if_neg h3, if_neg h4, if_neg h5, if_neg h6]

theorem wf_decodeHeader (h : Byte) : (decodeHeader h).wf = true := by
  cases hh : isKnownHeader dali h with
  | false => rwa [decodeHeader_of_not_isKnownHeader hh, wf_msgUnknown_iff]
  | true => obtain rfl | rfl | rfl | rfl | rfl | rfl := (isKnownHeader_iff dali h).1 hh <;> rfl

/-! ### TX items -/

/-- Data in a frame is of the form its class names (R102, R103). -/
theorem decode_txDataWord (b : Byte) :
    decode (txWord 1#2 0b00#2 b) = .ok (if isMarker dali b then .txDataMarker b else .txDataLiteral b) :=
  decode_txItemWord (S := .opened) TxState.noConfusion 0b00#2 b

theorem wf_of_decodeTx {q k : BitVec 2} {b : Byte} {i : Instr} (h : decodeTx q k b = .ok i) : i.wf = true := by
  unfold decodeTx at h
  split_ifs at h with _ _ _ _ _ hb <;> cases h
  any_goals rfl
  · exact hb
  · exact (wf_txDataLiteral_iff b).2 (Bool.eq_false_iff.2 hb)

/-! ### RX events -/

theorem decode_rxStartWord {q : BitVec 3} (hq : q ≠ 7#3) (n : Wait) :
    decode (rxWord q 0b100#3 n) = .ok (.rxStart n) := by
  rw [decode_rxWord, decodeRx, if_neg hq]; rfl

theorem decode_rxByteWord {q : BitVec 3} (hq : q ≠ 7#3) (b : Byte) :
    decode (rxWord q 0b010#3 b) = .ok (decodeRxByte q b) := by
  rw [decode_rxWord, decodeRx, if_neg hq]; rfl

theorem decodeRxByte_seekingOther {b : Byte} (hstart : b ≠ dali.start) (hesc : b ≠ dali.esc) :
    decodeRxByte 1#3 b = .rxByteSeekingOther b := by
  rw [decodeRxByte, if_pos rfl, if_neg hstart, if_neg hesc]

theorem decodeRxByte_inframeOther {b : Byte} (hstop : b ≠ dali.stop) (hesc : b ≠ dali.esc) :
    decodeRxByte 2#3 b = .rxByteInframeOther b := by
  rw [decodeRxByte, if_neg (by decide), if_pos rfl, if_neg hstop, if_neg hesc]

theorem wf_decodeRxByte (q : BitVec 3) (b : Byte) : (decodeRxByte q b).wf = true := by
  unfold decodeRxByte
  split_ifs with _ hstart hesc _ hstop hesc
  any_goals rfl
  · exact (wf_rxByteSeekingOther_iff b).2 ⟨hstart, hesc⟩
  · exact (wf_rxByteInframeOther_iff b).2 ⟨hstop, hesc⟩

theorem wf_of_decodeRx {q v : BitVec 3} {b : Byte} {i : Instr} (h : decodeRx q v b = .ok i) : i.wf = true := by
  unfold decodeRx at h
  split_ifs at h <;> cases h
  any_goals rfl
  exact wf_decodeRxByte q b

/-! ### The decoder -/

/-- Settles O6, row by row: where a row stands for a class of bytes, well-formedness is what leads the decoder past the
rows of the other classes. -/
theorem decodeOfEncodeIsTheInstruction : Obligations.DecodeOfEncodeIsTheInstruction := by
  unfold Obligations.DecodeOfEncodeIsTheInstruction
  intro i hi
  cases i with
  | wireStart | wireStop | wireEsc => rfl
  | wireLiteral b => rw [encode, decode_wireWord, decodeWire_of_not_isMarker ((wf_wireLiteral_iff b).1 hi)]
  | msgDaliCommand | msgDaliRcv1Bytes | msgDaliRcv2Bytes | msgTimeframeExpired | msgInvalidDaliFrame | msgEcho => rfl
  | msgUnknown h =>
    rw [encode, decode_headerWord, decodeHeader_of_not_isKnownHeader ((wf_msgUnknown_iff h).1 hi)]
  | status | rxRead => rfl
  | txBegin x => exact decode_txItemWord (S := .idle) TxState.noConfusion 0b01#2 x
  | txEnd x => exact decode_txItemWord (S := .opened) TxState.noConfusion 0b10#2 x
  | txReserved x => exact decode_txItemWord (S := .idle) TxState.noConfusion 0b11#2 x
  | txDrain => exact decode_txWord 2#2 0b00#2 0x00#8
  | txDataLiteral b =>
    have hb := Bool.eq_false_iff.1 ((wf_txDataLiteral_iff b).1 hi)
    rw [encode, decode_txDataWord, if_neg hb]
  | txDataMarker b => rw [encode, decode_txDataWord, if_pos ((wf_txDataMarker_iff b).1 hi)]
  | rxStart n => exact decode_rxStartWord (by decide) n
  | rxByteSeekingStart | rxByteSeekingEsc | rxByteInframeStop | rxByteInframeEsc | rxByteEscSeek | rxByteEscFrame =>
    exact decode_rxByteWord (by decide) _
  | rxByteSeekingOther b =>
    obtain ⟨hstart, hesc⟩ := (wf_rxByteSeekingOther_iff b).1 hi
    rw [encode, decode_rxByteWord (by decide), decodeRxByte_seekingOther hstart hesc]
  | rxByteInframeOther b =>
    obtain ⟨hstop, hesc⟩ := (wf_rxByteInframeOther_iff b).1 hi
    rw [encode, decode_rxByteWord (by decide), decodeRxByte_inframeOther hstop hesc]
  | rxIdle | rxNone => exact decode_rxWord _ _ 0x00#8

/-- Settles O7: each format's decoder answers a row that stands for a class only for a byte of that class. -/
theorem decodedInstructionsAreWellFormed : Obligations.DecodedInstructionsAreWellFormed := by
  unfold Obligations.DecodedInstructionsAreWellFormed
  intro w i h
  cases w with
  | wire b => cases h; exact wf_decodeWire b
  | header f => cases h; exact wf_decodeHeader f
  | status | readPort => cases h; rfl
  | txItem => exact wf_of_decodeTx h
  | rxEvent => exact wf_of_decodeRx h

/-- Settles O4: fourteen fixed words, each evaluated; a word's format is chosen by its width (assumption 6). -/
theorem opcodeTableWordsDecode : Obligations.OpcodeTableWordsDecode := by
  unfold Obligations.OpcodeTableWordsDecode
  decide

/-- Settles O5: a byte that is none of the three markers is a literal. -/
theorem wireByteHasOneClass : Obligations.WireByteHasOneClass := by
  unfold Obligations.WireByteHasOneClass
  refine fun b => ⟨?_, ?_, ?_, ?_⟩
  · rintro rfl; rfl
  · rintro rfl; rfl
  · rintro rfl; rfl
  · intro hstart hstop hesc
    have hb : isMarker dali b = false := (not_isMarker_iff dali b).2 ⟨hstart, hstop, hesc⟩
    rw [decode_wireWord, decodeWire_of_not_isMarker hb]

/-! ### The table of header values -/

/-- A header selects no kind but the one the table gives it. -/
theorem headerOfKind_kindOfHeader {c : Config} {h : Byte} (hk : kindOfHeader c h ≠ .unknown) :
    headerOfKind c (kindOfHeader c h) = some h := by
  unfold kindOfHeader at hk ⊢
  split_ifs at hk ⊢
  case neg => exact absurd rfl hk
  all_goals subst h; rfl

/-- With distinct values, no earlier row of the table hides a kind's own value. -/
theorem kindOfHeader_of_headerOfKind {c : Config} (hc : c.HeadersDistinct) {h : Byte} {k : MsgKind}
    (hk : headerOfKind c k = some h) : kindOfHeader c h = k := by
  cases k with
  | unknown => cases hk
  | timeframeExpired | daliRcv1Bytes | daliRcv2Bytes | invalidDaliFrame | echo | daliCommand =>
    cases hk
    simp_all [Config.HeadersDistinct, kindOfHeader, eq_comm]

/-- Settles O8: kind and value determine each other, and the six values of `dali` are the table's. -/
theorem headerTableIsABijection : Obligations.HeaderTableIsABijection := by
  unfold Obligations.HeaderTableIsABijection
  refine ⟨fun c hc h k hk => ⟨?_, kindOfHeader_of_headerOfKind hc⟩, rfl, rfl, rfl, rfl, rfl, rfl⟩
  rintro rfl
  exact headerOfKind_kindOfHeader hk

end Sys2Proof
end

section
/-! PROOFS, 40_stuffer.md. What one TX cycle conserves: the bytes emitted with the byte still owed are those of the items
accepted, and a frame is open by the last item accepted; over a run this is `Encode`. Then the shape and the injectivity
of `Encode`, and the TX rows one by one. -/

namespace Sys2Proof.Machine

/-! ### What a run of TX cycles emits -/

/-- The wire bytes an accepted item comes to, the escaped byte of a pair with its item (R101 to R105). -/
def TxItem.wireBytes (c : Config) : TxItem → List Byte
  | .data b => stuffByte c b
  | .beginFrame => [c.start]
  | .endFrame => [c.stop]
  | .reserved => []

/-- The bytes of accepted items that are still to be emitted: `tx_hold` in `TX_ESC2` (R22). -/
def TxUnit.owed (t : TxUnit) : List Byte := if t.state = .esc2 then [t.hold] else []

/-- The items that can be accepted: BEGIN in `TX_IDLE`, and data and END in `TX_OPEN` (R106). -/
theorem TxUnit.legal_iff (t : TxUnit) (k : BitVec 2) :
    t.legal k = true ↔ (t.state = .idle ∧ k = 0b01#2) ∨ (t.state = .opened ∧ (k = 0b00#2 ∨ k = 0b10#2)) := by
  unfold TxUnit.legal
  cases t.state <;> simp

/-- A cycle without a TX step changes no register, emits nothing and accepts nothing. -/
theorem txCycle_of_no_fire {t : TxUnit} {i : TxIn} (hf : txFire t i = false) (c : Config) :
    txCycle c t i = t ∧ txEmits c t i = [] ∧ txAccepts t i = [] := by
  refine ⟨by simp [txCycle, hf], by simp [txEmits, hf], ?_⟩
  simp only [txFire, wtxValid, Bool.and_eq_false_iff, Bool.or_eq_false_iff] at hf
  obtain ⟨-, hv | hl⟩ | hw := hf <;> simp [txAccepts, TxUnit.ready, *]

/-- A cycle with a TX step is the drain of `TX_ESC2`, which accepts nothing, or accepts the item offered. -/
theorem txFire_cases {t : TxUnit} {i : TxIn} (hf : txFire t i = true) :
    (t.state = .esc2 ∧ txAccepts t i = []) ∨ (t.legal i.kind = true ∧ txAccepts t i = [i.item]) := by
  by_cases hs : t.state = .esc2
  · exact .inl ⟨hs, by simp [txAccepts, TxUnit.ready, TxUnit.legal, hs]⟩
  · simp only [txFire, wtxValid, beq_eq_false_iff_ne.2 hs, Bool.false_or, Bool.and_eq_true] at hf
    obtain ⟨⟨hv, hl⟩, hw⟩ := hf
    exact .inr ⟨hl, by simp [txAccepts, TxUnit.ready, hv, hl, hw]⟩

/-- The byte of an accepted item and the byte owed after it are the item's bytes: a marker's pair is its escape marker now
and the byte itself later (R101 to R103, R105). -/
theorem wtxData_owed_of_legal {t : TxUnit} {i : TxIn} (hl : t.legal i.kind = true) (c : Config) :
    wtxData c t i :: (txNext c t i).owed = i.item.wireBytes c := by
  obtain ⟨hs, hk⟩ | ⟨hs, hk | hk⟩ := (t.legal_iff _).1 hl
  · simp [wtxData, txNext, TxUnit.owed, TxIn.item, TxItem.wireBytes, hs, hk]
  · cases hm : isMarker c i.data <;>
      simp [wtxData, txNext, TxUnit.owed, TxIn.item, TxItem.wireBytes, stuffByte, hs, hk, hm]
  · simp [wtxData, txNext, TxUnit.owed, TxIn.item, TxItem.wireBytes, hs, hk]

/-- Every cycle conserves bytes: those emitted and owed after it are those owed before it and the accepted item's. -/
theorem txEmits_append_owed (c : Config) (t : TxUnit) (i : TxIn) :
    txEmits c t i ++ (txCycle c t i).owed = t.owed ++ (txAccepts t i).flatMap (TxItem.wireBytes c) := by
  cases hf : txFire t i with
  | false =>
    obtain ⟨hcycle, hemits, haccepts⟩ := txCycle_of_no_fire hf c
    simp [hcycle, hemits, haccepts]
  | true =>
    obtain ⟨hs, haccepts⟩ | ⟨hl, haccepts⟩ := txFire_cases hf
    · simp [txEmits, txCycle, hf, haccepts, wtxData, txNext, TxUnit.owed, hs]
    · have hs : t.state ≠ .esc2 := by rintro hs; simp [TxUnit.legal, hs] at hl
      simpa [txEmits, txCycle, hf, haccepts, TxUnit.owed, hs] using wtxData_owed_of_legal hl c

/-- Over a run, from any state: the bytes emitted are those of the items accepted, but for what is owed at its ends. -/
theorem txEmitted_append_owed (c : Config) (t : TxUnit) (run : List TxIn) :
    txEmitted c t run ++ (txAfter c t run).owed =
      t.owed ++ (txAccepted c t run).flatMap (TxItem.wireBytes c) := by
  induction run generalizing t with
  | nil => simp [txEmitted, txAccepted, txAfter]
  | cons i run ih =>
    calc txEmitted c t (i :: run) ++ (txAfter c t (i :: run)).owed
      _ = txEmits c t i ++ (txEmitted c (txCycle c t i) run ++ (txAfter c (txCycle c t i) run).owed) := by
        rw [txEmitted_cons, txAfter_cons, List.append_assoc]
      _ = (txEmits c t i ++ (txCycle c t i).owed) ++
            (txAccepted c (txCycle c t i) run).flatMap (TxItem.wireBytes c) := by rw [ih, List.append_assoc]
      _ = t.owed ++ (txAccepted c t (i :: run)).flatMap (TxItem.wireBytes c) := by
        rw [txEmits_append_owed, txAccepted, List.flatMap_append, List.append_assoc]

/-- A frame is open once the item has been accepted: every item but END leaves one open (R101 to R105). -/
def TxItem.leavesOpen (item : TxItem) : Bool := !(item == .endFrame)

/-- Whether a frame is open is decided by the last item accepted, and stays where none is (R33, `tx_busy`). -/
def openAfter (before : Bool) (items : List TxItem) : Bool := items.foldl (fun _ item => item.leavesOpen) before

theorem openAfter_append (before : Bool) (items items' : List TxItem) :
    openAfter before (items ++ items') = openAfter (openAfter before items) items' := List.foldl_append

theorem busy_txCycle (c : Config) (t : TxUnit) (i : TxIn) :
    (txCycle c t i).busy = openAfter t.busy (txAccepts t i) := by
  cases hf : txFire t i with
  | false =>
    obtain ⟨hcycle, -, haccepts⟩ := txCycle_of_no_fire hf c
    simp [hcycle, haccepts, openAfter]
  | true =>
    obtain ⟨hs, haccepts⟩ | ⟨hl, haccepts⟩ := txFire_cases hf
    · simp [txCycle, hf, haccepts, txNext, TxUnit.busy, openAfter, hs]
    · rw [haccepts, txCycle, if_pos hf]
      obtain ⟨hs, hk⟩ | ⟨hs, hk | hk⟩ := (t.legal_iff _).1 hl
      · simp [txNext, TxUnit.busy, TxIn.item, openAfter, TxItem.leavesOpen, hs, hk]
      · cases hm : isMarker c i.data <;> simp [txNext, TxUnit.busy, TxIn.item, openAfter, TxItem.leavesOpen, hs, hk, hm]
      · simp [txNext, TxUnit.busy, TxIn.item, openAfter, TxItem.leavesOpen, hs, hk]

theorem busy_txAfter (c : Config) (t : TxUnit) (run : List TxIn) :
    (txAfter c t run).busy = openAfter t.busy (txAccepted c t run) := by
  induction run generalizing t with
  | nil => rfl
  | cons i run ih => rw [txAfter_cons, ih, busy_txCycle, txAccepted, openAfter_append]

theorem TxUnit.busy_eq_false_iff (t : TxUnit) : t.busy = false ↔ t.state = .idle := by simp [TxUnit.busy]

theorem TxUnit.owed_of_idle {t : TxUnit} (h : t.state = .idle) : t.owed = [] := by simp [TxUnit.owed, h]

/-- Settles O17: no byte is owed where the run begins or ends, since END is the last item accepted. -/
theorem stufferStreamIsEncode : Obligations.StufferStreamIsEncode := by
  unfold Obligations.StufferStreamIsEncode
  intro c t run p ht haccepted
  have hend : (txAfter c t run).state = .idle := by
    rw [← TxUnit.busy_eq_false_iff, busy_txAfter, haccepted, ← List.cons_append, openAfter_append]
    rfl
  have hbytes := txEmitted_append_owed c t run
  rw [TxUnit.owed_of_idle ht, TxUnit.owed_of_idle hend, haccepted, List.append_nil, List.nil_append] at hbytes
  refine ⟨?_, hend⟩
  rw [hbytes, stuff, List.flatMap_cons, List.flatMap_append, List.flatMap_map]
  rfl

/-! ### The steps of a TX cycle -/

/-- Settles O15: `step_tx` is this statement. -/
theorem txStepIsThePortCycle : Obligations.TxStepIsThePortCycle := by
  unfold Obligations.TxStepIsThePortCycle
  intro s i rest hscript
  rw [step_tx (State.offer_of_cons hscript), State.advance_of_cons hscript]
  rfl

/-- An item that is not legal where items are judged is rejected, and only the handshake changes (R106). -/
theorem step_tx_of_illegal {s : State} {i : TxIn} {rest : List Offer} (hscript : s.script = .tx i :: rest)
    (he : s.tx.err i = true) : step s = .next (rejectItem { s with script := rest }) := by
  rw [step_tx (State.offer_of_cons hscript), State.advance_of_cons hscript,
    afterTxCycle_of_err (s := { s with script := rest }) he]

/-- The rejection repeats for as long as the item is offered: it leaves the registers that judge the item. -/
theorem runSteps_of_illegal {i : TxIn} {rest : List Offer} (k : Nat) {s : State} (he : s.tx.err i = true)
    (hscript : s.script = List.replicate (k + 1) (.tx i) ++ rest) :
    runSteps (k + 1) s = .next (rejectItem { s with script := rest }) := by
  induction k generalizing s with
  | zero => rw [runSteps_one]; exact step_tx_of_illegal hscript he
  | succ k ih =>
    have hfirst := step_tx_of_illegal (rest := List.replicate (k + 1) (.tx i) ++ rest) hscript he
    rw [runSteps_next _ hfirst]
    exact ih (s := rejectItem _) he rfl

/-! ### The rows -/

/-- In `TX_ESC2` every item waits, whatever row it is of: none is judged (R104, R106). -/
theorem exec_item_of_esc2 {i : Instr} {s : State} (hs : s.tx.state = .esc2) (hi : (encode i).format = .txItem)
    (hdrain : i ≠ .txDrain) (hwf : i.wf = true) : exec i s = .next (holdItem s) := by
  cases i with
  | txBegin => simp [exec, execTxBegin, hs]
  | txDataLiteral b => simp [exec, execTxDataLiteral, (wf_txDataLiteral_iff b).1 hwf, hs]
  | txDataMarker b => simp [exec, execTxDataMarker, (wf_txDataMarker_iff b).1 hwf, hs]
  | txEnd => simp [exec, execTxEnd, hs]
  | txReserved => simp [exec, execTxReserved, hs]
  | txDrain => exact absurd rfl hdrain
  | wireStart | wireStop | wireEsc | wireLiteral | msgDaliCommand | msgDaliRcv1Bytes | msgDaliRcv2Bytes |
      msgTimeframeExpired | msgInvalidDaliFrame | msgEcho | msgUnknown | status | rxStart | rxByteSeekingStart |
      rxByteSeekingEsc | rxByteSeekingOther | rxByteEscSeek | rxByteInframeStop | rxByteInframeEsc |
      rxByteInframeOther | rxByteEscFrame | rxIdle | rxNone | rxRead => exact Format.noConfusion hi

/-- Where items are judged, the row of an illegal item rejects it (R106). -/
theorem exec_item_of_illegal {i : Instr} {s : State} {k : BitVec 2} {b : Byte} (hs : s.tx.state ≠ .esc2)
    (hd : decode (txWord s.tx.state.code k b) = .ok i) (hl : s.tx.legal k = false) : exec i s = .next (rejectItem s) := by
  obtain ⟨j, hj, hexec⟩ := exec_txItem hs ⟨true, k, b, true⟩
  cases hd.symm.trans hj
  rw [hexec, hl]
  rfl

/-- Settles O14: an illegal item is rejected in every cycle, and TX.RESERVED is legal in no state. -/
theorem illegalItemsAreNeverAccepted : Obligations.IllegalItemsAreNeverAccepted := by
  unfold Obligations.IllegalItemsAreNeverAccepted
  refine ⟨fun k s i rest hv hillegal hscript => ?_, fun x s => ⟨fun hs => ?_, fun hs => ?_⟩, fun t r i hs => ?_⟩
  · have he : s.tx.err i = true := by
      obtain ⟨hs, hk⟩ | ⟨hs, hk | hk⟩ := hillegal <;> simp [TxUnit.err, TxUnit.legal, hv, hs, hk]
    exact runSteps_of_illegal k he hscript
  · have hl : s.tx.legal 0b11#2 = false := by simp [Bool.eq_false_iff, TxUnit.legal_iff]
    exact exec_item_of_illegal hs (decode_txItemWord hs 0b11#2 x) hl
  · exact exec_item_of_esc2 hs rfl Instr.noConfusion rfl
  · simp [outputs, TxUnit.err, hs]

/-- Settles O9: accepted where `TX_IDLE` takes it, rejected in `TX_OPEN`, held in `TX_ESC2`. -/
theorem txBeginOpensAFrame : Obligations.TxBeginOpensAFrame := by
  unfold Obligations.TxBeginOpensAFrame
  refine fun x s => ⟨⟨?_, ?_⟩, fun hs => ?_, fun hs => ?_, fun hs => ?_⟩
  · exact decode_txItemWord (S := .idle) TxState.noConfusion 0b01#2 x
  · exact decode_txItemWord (S := .opened) TxState.noConfusion 0b01#2 x
  · simp [exec, execTxBegin, hs, acceptItem_eq]
  · have hj : s.tx.state ≠ .esc2 := by simp [hs]
    exact exec_item_of_illegal hj (decode_txItemWord hj 0b01#2 x) (by simp [TxUnit.legal, hs])
  · exact exec_item_of_esc2 hs rfl Instr.noConfusion rfl

/-- Settles O13: accepted in `TX_OPEN`, rejected in `TX_IDLE`, held in `TX_ESC2`, so no frame ends inside a pair. -/
theorem txEndClosesTheFrame : Obligations.TxEndClosesTheFrame := by
  unfold Obligations.TxEndClosesTheFrame
  refine fun x s => ⟨?_, fun hs => ?_, fun hs => ?_, fun hs => ?_⟩
  · exact decode_txItemWord (S := .opened) TxState.noConfusion 0b10#2 x
  · simp [exec, execTxEnd, hs, acceptItem_eq]
  · have hj : s.tx.state ≠ .esc2 := by simp [hs]
    exact exec_item_of_illegal hj (decode_txItemWord hj 0b10#2 x) (by simp [TxUnit.legal, hs])
  · exact exec_item_of_esc2 hs rfl Instr.noConfusion rfl

/-- Data is illegal in `TX_IDLE`, in whichever form the byte's class gives it (R102, R103, R106). -/
theorem exec_data_of_idle {s : State} (hs : s.tx.state = .idle) (b : Byte) :
    exec (if isMarker dali b then .txDataMarker b else .txDataLiteral b) s = .next (rejectItem s) := by
  have hj : s.tx.state ≠ .esc2 := by simp [hs]
  exact exec_item_of_illegal hj (decode_txItemWord hj 0b00#2 b) (by simp [TxUnit.legal, hs])

/-- Settles O10: a byte that is no marker decodes to the literal form, which leaves the TX registers alone. -/
theorem txDataLiteralEmitsTheByte : Obligations.TxDataLiteralEmitsTheByte := by
  unfold Obligations.TxDataLiteralEmitsTheByte
  intro b s hstart hstop hesc
  have hb : isMarker dali b = false := (not_isMarker_iff dali b).2 ⟨hstart, hstop, hesc⟩
  refine ⟨?_, fun hs => ?_, fun hs => ?_, fun hs => ?_⟩
  · simp [decode_txDataWord, hb]
  · have hkeep : { s.tx with state := .opened } = s.tx := by rw [← hs]
    simp [exec, execTxDataLiteral, hb, hs, acceptItem_eq, hkeep]
  · simpa [hb, rejectItem_eq] using exec_data_of_idle hs b
  · exact exec_item_of_esc2 hs rfl Instr.noConfusion ((wf_txDataLiteral_iff b).2 hb)

/-- Settles O11: a marker decodes to the marker form, which emits the escape marker and holds the byte back. -/
theorem txDataMarkerEmitsTheEscape : Obligations.TxDataMarkerEmitsTheEscape := by
  unfold Obligations.TxDataMarkerEmitsTheEscape
  intro b s hmarker
  have hb : isMarker dali b = true := (isMarker_iff dali b).2 hmarker
  refine ⟨?_, fun hs => ?_, fun hs => ?_, fun hs => ?_⟩
  · simp [decode_txDataWord, hb]
  · simp [exec, execTxDataMarker, hb, hs, acceptItem_eq]
  · simpa [hb, rejectItem_eq] using exec_data_of_idle hs b
  · exact exec_item_of_esc2 hs rfl Instr.noConfusion ((wf_txDataMarker_iff b).2 hb)

/-- Settles O12: with the wire sink ready every item's word decodes to TX.DRAIN, and without it no row is fetched. -/
theorem txDrainEmitsTheByteOwed : Obligations.TxDrainEmitsTheByteOwed := by
  unfold Obligations.TxDrainEmitsTheByteOwed
  refine fun s hs => ⟨by simp [exec, execTxDrain, hs, holdItem_eq, State.emit], fun i rest hscript => ?_⟩
  have ho : s.offer = .tx i := State.offer_of_cons hscript
  rw [← State.advance_of_cons hscript]
  cases hw : i.wtxReady with
  | true =>
    have hfetch : fetch s = .word (txWord 2#2 i.kind i.data) := by simp [fetch, ho, fetchTx, hs, hw, TxState.code]
    exact step_of_word hfetch (decode_txWord ..)
  | false =>
    have hfetch : fetch s = .hold false := by simp [fetch, ho, fetchTx, hs, hw, TxUnit.ready]
    simp only [step, hfetch]
    rw [State.advance_of_cons hscript]
    rfl

/-! ### The shape and the injectivity of `Encode` -/

/-- One byte for every payload byte, and one more for every marker (R71). -/
theorem length_flatMap_stuffByte (c : Config) (p : List Byte) :
    (p.flatMap (stuffByte c)).length = p.length + p.countP (isMarker c) := by
  induction p with
  | nil => rfl
  | cons b p ih =>
    rw [List.flatMap_cons, List.length_append, ih, List.length_cons, List.countP_cons]
    cases hm : isMarker c b <;> simp [stuffByte, hm] <;> omega

theorem ne_esc_of_not_isMarker {c : Config} {b : Byte} (hm : isMarker c b = false) : b ≠ c.esc := by
  obtain ⟨-, -, hesc⟩ := (not_isMarker_iff c b).1 hm
  exact hesc

theorem wellPaired_esc_cons (c : Config) (b : Byte) (rest : List Byte) :
    wellPaired c (c.esc :: b :: rest) = wellPaired c rest := if_pos rfl

theorem wellPaired_cons_of_not_isMarker {c : Config} {b : Byte} (hm : isMarker c b = false) (rest : List Byte) :
    wellPaired c (b :: rest) = wellPaired c rest := by
  rw [wellPaired.eq_def]
  simp [ne_esc_of_not_isMarker hm, hm]

/-- A payload byte is stuffed to a pair or to a byte that is no marker. -/
theorem wellPaired_flatMap_stuffByte (c : Config) (p : List Byte) : wellPaired c (p.flatMap (stuffByte c)) = true := by
  induction p with
  | nil => rfl
  | cons b p ih =>
    rw [List.flatMap_cons]
    cases hm : isMarker c b with
    | true => simpa [stuffByte, hm, wellPaired_esc_cons] using ih
    | false => simpa [stuffByte, hm, wellPaired_cons_of_not_isMarker hm] using ih

/-- Settles O18: the body is the payload's bytes, stuffed one by one. -/
theorem encodedFrameShape : Obligations.EncodedFrameShape := by
  unfold Obligations.EncodedFrameShape
  intro c p
  have hlength : (stuff c p).length = 2 + p.length + p.countP (isMarker c) := by
    rw [stuff, List.length_cons, List.length_append, length_flatMap_stuffByte, List.length_singleton]
    omega
  have hmarkers : p.countP (isMarker c) ≤ p.length := List.countP_le_length
  exact ⟨hlength, by omega, by omega, p.flatMap (stuffByte c), rfl, wellPaired_flatMap_stuffByte c p⟩

/-- No stuffed byte is a proper beginning of another: a pair begins with the escape marker, and a single byte is not
it. -/
theorem stuffByte_append_inj {c : Config} {a b : Byte} {u v : List Byte}
    (h : stuffByte c a ++ u = stuffByte c b ++ v) : a = b ∧ u = v := by
  cases ha : isMarker c a with
  | true =>
    cases hb : isMarker c b with
    | true => simpa [stuffByte, ha, hb] using h
    | false =>
      have hhead : c.esc = b ∧ a :: u = v := by simpa [stuffByte, ha, hb] using h
      exact absurd hhead.1.symm (ne_esc_of_not_isMarker hb)
  | false =>
    cases hb : isMarker c b with
    | true =>
      have hhead : a = c.esc ∧ u = b :: v := by simpa [stuffByte, ha, hb] using h
      exact absurd hhead.1 (ne_esc_of_not_isMarker ha)
    | false => simpa [stuffByte, ha, hb] using h

theorem flatMap_stuffByte_inj {c : Config} {p q : List Byte}
    (h : p.flatMap (stuffByte c) = q.flatMap (stuffByte c)) : p = q := by
  have hne : ∀ b, stuffByte c b ≠ [] := fun b => by unfold stuffByte; split <;> simp
  induction p generalizing q with
  | nil =>
    cases q with
    | nil => rfl
    | cons b q => simp [hne b] at h
  | cons a p ih =>
    cases q with
    | nil => simp [hne a] at h
    | cons b q =>
      rw [List.flatMap_cons, List.flatMap_cons] at h
      obtain ⟨rfl, hrest⟩ := stuffByte_append_inj h
      rw [ih hrest]

/-- Settles O19: the ends of the frame are the same, so the bodies are equal. -/
theorem encodeIsInjective : Obligations.EncodeIsInjective := by
  unfold Obligations.EncodeIsInjective
  intro c p q h
  exact flatMap_stuffByte_inj (List.append_cancel_right (List.cons.inj h).2)

end Sys2Proof.Machine
end

section
/-! PROOFS, 41_unstuffer.md. What each RX row does to the whole state, and which row a cycle runs; the loop of
`DecodeRun` and an induction over the items it uses; from these, what a frame is received as, what an invocation can
use, and that the cells of an earlier one are not seen; and the machine as that loop. -/

namespace Sys2Proof.Machine

/-! ### RX.START, RX.IDLE and RX.READ -/

/-- Settles O21: with a limit of 0 or 1 the first idle poll after RX.START reaches it. -/
theorem rxStartBeginsAnInvocation : Obligations.RxStartBeginsAnInvocation := by
  unfold Obligations.RxStartBeginsAnInvocation
  intro n s
  have hexec : s.rx.busy = false → exec (.rxStart n) s = .next { s with rx := startInvocation n s.rx } := fun hb => by
    rw [exec, execRxStart, rxStep_of_not_busy hb]
  refine ⟨decode_rxStartWord s.rx.state.code_ne_seven n, fun hb => ?_, hexec, fun hb hn => ?_⟩
  · rw [exec, execRxStart, rxStep_start_of_busy hb]
  · have hgiveUp : idlePoll (startInvocation n s.rx) = giveUp .waitLimit { startInvocation n s.rx with waitCnt := 1 } :=
      idlePoll_at_limit hn
    exact ⟨_, _, hexec hb, rfl, congrArg RxUnit.state hgiveUp, congrArg RxUnit.cause hgiveUp⟩

/-- Settles O29: below the limit the poll is counted, and at the limit the unit gives up too. -/
theorem rxIdleCountsAndGivesUpAtTheLimit : Obligations.RxIdleCountsAndGivesUpAtTheLimit := by
  unfold Obligations.RxIdleCountsAndGivesUpAtTheLimit
  intro s
  refine ⟨?_, fun hb => ?_, fun hb => ?_⟩
  · rw [decode_rxWord, decodeRx, if_neg s.rx.state.code_ne_seven]; rfl
  · rw [exec, execRxIdle, rxStep_idle_of_busy hb]
    by_cases hlim : s.rx.waitLim.toNat ≤ s.rx.waitCnt.toNat + 1
    · rw [idlePoll_at_limit hlim]; simp [hlim, giveUp]
    · rw [idlePoll_below_limit (by omega)]; simp [hlim]
  · rw [exec, execRxIdle, rxStep_of_not_busy hb]

/-- Settles O32: in a lawful state no index from 39 lies below `acc_len` (R38 item 3). -/
theorem rxReadIsMasked : Obligations.RxReadIsMasked := by
  unfold Obligations.RxReadIsMasked
  refine fun i s => ⟨rfl, fun hl hi => ⟨_, rfl, if_neg ?_⟩⟩
  have := hl.lenCapped
  rw [dali_accCap] at this
  omega

/-! ### The arms of RX.BYTE -/

/-- The byte-cap check as one update of the registers, where no frame is complete (R132). -/
theorem capCheck_of_not_complete {c : Config} {r : RxUnit} (h : r.state ≠ .complete) :
    capCheck c r = { r with
      state := if r.byteCnt.toNat = c.byteCap then .exhausted else r.state
      cause := if r.byteCnt.toNat = c.byteCap then .byteCap else r.cause } := by
  by_cases hb : r.byteCnt.toNat = c.byteCap
  · rw [capCheck_at_cap h hb]; simp [giveUp, hb]
  · rw [capCheck_of_below hb]; simp [hb]

theorem State.offersByte_of_cons {s : State} {b : Byte} {rest : List Byte} (h : s.wireIn = b :: rest) :
    s.offersByte b = true := by simp [State.offersByte, h]

theorem State.consume_of_cons {s : State} {b : Byte} {rest : List Byte} (h : s.wireIn = b :: rest) (r : RxUnit) :
    s.consume r = { s with rx := r, wireIn := rest } := by simp [State.consume, h]

/-- A row on the head of the queue whose arm does not complete the frame, as one update of the state (R123, R132). -/
theorem State.consume_byteStep {s : State} {b : Byte} {rest : List Byte} {arm : RxUnit → RxUnit} {r : RxUnit}
    (hw : s.wireIn = b :: rest) (harm : arm (countByte dali s.rx) = r) (hr : r.state ≠ .complete) :
    s.consume (byteStep dali arm s.rx) = { s with
      wireIn := rest
      rx := { r with
        state := if r.byteCnt.toNat = 40 then .exhausted else r.state
        cause := if r.byteCnt.toNat = 40 then .byteCap else r.cause } } := by
  rw [State.consume_of_cons hw, byteStep, harm, capCheck_of_not_complete hr]
  rfl

/-- Settles O27: `countByte` and `giveUp` name what the statement writes out. -/
theorem rxByteCountsThenChecksTheCap : Obligations.RxByteCountsThenChecksTheCap := by
  unfold Obligations.RxByteCountsThenChecksTheCap
  intro c r b hb
  exact rxStep_byte_of_busy hb b

/-- Settles O22: the three arms of `SEEKING`, each with its target state. -/
theorem rxByteWhileSeeking : Obligations.RxByteWhileSeeking := by
  unfold Obligations.RxByteWhileSeeking
  intro s rest hs
  refine ⟨fun hw => ?_, fun hw => ?_, fun b hstart hesc hw => ?_⟩
  · rw [exec, execRxByteSeekingStart, if_pos ⟨hs, State.offersByte_of_cons hw⟩,
      State.consume_byteStep hw rfl RxState.noConfusion]
    rfl
  · rw [exec, execRxByteSeekingEsc, if_pos ⟨hs, State.offersByte_of_cons hw⟩,
      State.consume_byteStep hw rfl RxState.noConfusion]
    rfl
  · rw [exec, execRxByteSeekingOther, if_pos ⟨hs, ⟨hstart, hesc⟩, State.offersByte_of_cons hw⟩,
      State.consume_byteStep hw rfl (by simp [hs])]
    simp only [id, countByte_state, hs]
    rfl

/-- Settles O23: the arm of `ESC_SEEK` does not look at the byte. -/
theorem rxByteAfterNoiseEscapeIsDiscarded : Obligations.RxByteAfterNoiseEscapeIsDiscarded := by
  unfold Obligations.RxByteAfterNoiseEscapeIsDiscarded
  intro b s rest hs hw
  rw [exec, execRxByteEscSeek, if_pos ⟨hs, State.offersByte_of_cons hw⟩,
    State.consume_byteStep hw rfl RxState.noConfusion]
  rfl

/-- Settles O24: completion beats the byte cap. -/
theorem rxStopCompletesTheFrame : Obligations.RxStopCompletesTheFrame := by
  unfold Obligations.RxStopCompletesTheFrame
  intro s rest hs hw
  rw [exec, execRxByteInframeStop, if_pos ⟨hs, State.offersByte_of_cons hw⟩, State.consume_of_cons hw, byteStep,
    capCheck_of_complete (goto_state _ _)]
  rfl

/-- Settles O25: the arm of the escape marker leaves `acc` and `acc_len` alone. -/
theorem rxEscapeInsideAFrame : Obligations.RxEscapeInsideAFrame := by
  unfold Obligations.RxEscapeInsideAFrame
  intro s rest hs hw
  rw [exec, execRxByteInframeEsc, if_pos ⟨hs, State.offersByte_of_cons hw⟩,
    State.consume_byteStep hw rfl RxState.noConfusion]
  rfl

/-- Settles O26: the two appending arms store alike; that a full accumulator faults is the model's choice
(assumption 4). -/
theorem rxByteIsAppended : Obligations.RxByteIsAppended := by
  unfold Obligations.RxByteIsAppended
  intro b s rest hw
  refine ⟨fun hs hstop hesc => ?_, fun hs => ?_, Memory.read_write_same,
    fun a ha => Memory.read_write_of_ne ha s.rx.acc⟩
  · rw [exec, execRxByteInframeOther, if_pos ⟨hs, ⟨hstop, hesc⟩, State.offersByte_of_cons hw⟩,
      State.consume_byteStep hw rfl (by simp [hs])]
    simp only [RxUnit.hasRoom, decide_eq_true_eq, append_state, countByte_state, hs]
    rfl
  · rw [exec, execRxByteEscFrame, if_pos ⟨hs, State.offersByte_of_cons hw⟩,
      State.consume_byteStep hw rfl RxState.noConfusion]
    simp only [RxUnit.hasRoom, decide_eq_true_eq]
    rfl

/-! ### Which row a cycle runs, and that rows complete -/

/-- Settles O28: the row that state and byte class select consumes the byte where it is offered. -/
theorem rxByteRowsAreTheReferenceStep : Obligations.RxByteRowsAreTheReferenceStep := by
  unfold Obligations.RxByteRowsAreTheReferenceStep
  intro b s hb hroom
  obtain ⟨i, hi, hexec⟩ := exec_rxByteRow b s hb
  refine ⟨i, by rw [decode_rxByteWord s.rx.state.code_ne_seven, hi], ?_⟩
  rw [hexec, consumeByte_of_room hroom]
  simp only [State.offersByte, beq_iff_eq]
  rfl

/-- Settles O30: the cycle's word decodes in the fixed priority of R122, and each row is its event. -/
theorem rxEventSelection : Obligations.RxEventSelection := by
  unfold Obligations.RxEventSelection
  refine ⟨fun _ => rfl, fun s start tick limit rest hscript hroom => ?_⟩
  have hfetch : fetch s = .word (rxWord s.rx.state.code (rxVector s.rx.busy start (!s.wireIn.isEmpty) tick)
      (if start && !s.rx.busy then limit else s.wireIn.headD 0x00#8)) := by
    simp only [fetch, State.offer_of_cons hscript, fetchRx]
  rw [step_of_word hfetch (decode_rxCycleWord _ _ _ _ _ _), State.advance_of_cons hscript]
  cases hb : s.rx.busy with
  | false => cases start <;> simp [exec, execRxStart, execRxNone]
  | true =>
    by_cases hw : s.wireIn = []
    · cases tick <;> simp [exec, execRxIdle, execRxNone, hw]
    · obtain ⟨i, hi, hexec⟩ := exec_rxByteRow (s.wireIn.headD 0x00#8) { s with script := rest } hb
      rw [consumeByte_of_room (hroom hb), if_pos (State.offersByte_head (s := { s with script := rest }) hw _)] at hexec
      subst hi
      simpa [State.consume, hw] using hexec

/-- No operation faults while a busy unit has room to append (R190, R38 item 3). -/
theorem exec_completes {s : State} (hroom : s.rx.busy = true → s.rx.accLen.toNat < accCap dali) (i : Instr) :
    ∃ t, exec i s = .next t := by
  have deliver : ∀ b, ∃ t, deliverByte dali b s = .next t := by
    intro b
    cases hb : s.rx.busy with
    | false => exact ⟨_, deliverByte_of_not_busy hb⟩
    | true => exact ⟨_, (deliverByte_of_busy hb).trans (consumeByte_of_room (hroom hb))⟩
  have appended : s.rx.state = .inframe ∨ s.rx.state = .escFrame → s.rx.hasRoom dali = true :=
    fun hs => decide_eq_true (hroom (s.rx.busy_iff.2 (.inr (hs.imp_right .inr))))
  cases i with
  | wireStart | wireStop | wireEsc | wireLiteral => exact deliver _
  | rxByteInframeOther b =>
    simp only [exec, execRxByteInframeOther]
    split
    · rename_i h
      exact ⟨_, if_pos (appended (.inl h.1))⟩
    · exact ⟨_, rfl⟩
  | rxByteEscFrame b =>
    simp only [exec, execRxByteEscFrame]
    split
    · rename_i h
      exact ⟨_, if_pos (appended (.inr h.1))⟩
    · exact ⟨_, rfl⟩
  | rxByteSeekingStart | rxByteSeekingEsc | rxByteSeekingOther | rxByteEscSeek | rxByteInframeStop | rxByteInframeEsc =>
    simp only [exec, execRxByteSeekingStart, execRxByteSeekingEsc, execRxByteSeekingOther, execRxByteEscSeek,
      execRxByteInframeStop, execRxByteInframeEsc]
    split <;> exact ⟨_, rfl⟩
  | txBegin | txDrain | txEnd | txReserved =>
    simp only [exec, execTxBegin, execTxDrain, execTxEnd, execTxReserved]
    split <;> exact ⟨_, rfl⟩
  | txDataLiteral | txDataMarker =>
    simp only [exec, execTxDataLiteral, execTxDataMarker]
    split
    · exact ⟨_, rfl⟩
    · split <;> exact ⟨_, rfl⟩
  | msgDaliCommand | msgDaliRcv1Bytes | msgDaliRcv2Bytes | msgTimeframeExpired | msgInvalidDaliFrame | msgEcho |
      msgUnknown | status | rxStart | rxIdle | rxNone | rxRead => exact ⟨_, rfl⟩

/-- Settles O31: an operation that completes takes a byte only while busy, and otherwise changes the RX registers only
as RX.START or RX.IDLE does (`exec_rx_cases`). -/
theorem terminalStatesHold : Obligations.TerminalStatesHold := by
  unfold Obligations.TerminalStatesHold
  intro i s hs hstart
  have hb : s.rx.busy = false := s.rx.not_busy_iff.2 (or_rotate.2 hs)
  obtain ⟨t, ht⟩ := exec_completes (s := s) (fun h => Bool.noConfusion (hb.symm.trans h)) i
  refine ⟨t, ht, ?_⟩
  obtain ⟨hw, hr⟩ | ⟨b, hbusy, -⟩ := exec_rx_cases ht
  · refine ⟨?_, hw ▸ List.prefix_append _ _⟩
    obtain hr | ⟨n, hi, -⟩ | ⟨-, hr⟩ := hr
    · exact hr
    · exact absurd hi (hstart n)
    · rw [hr, rxStep_of_not_busy hb]
  · exact Bool.noConfusion (hb.symm.trans hbusy)

/-! ### What an event does to each register -/

/-- Every way an arm can leave `acc_len`: cleared, kept, or one more where the byte is appended. -/
theorem byteArm_accLen_cases (c : Config) (r : RxUnit) (b : Byte) :
    (byteArm c r.state b (countByte c r)).accLen = 0#6 ∨ (byteArm c r.state b (countByte c r)).accLen = r.accLen ∨
      (r.appends c b = true ∧ (byteArm c r.state b (countByte c r)).accLen = r.accLen + 1) := by
  cases hs : r.state with
  | seeking =>
    simp only [byteArm]
    split
    · exact .inl rfl
    · split <;> exact .inr (.inl rfl)
  | inframe =>
    simp only [byteArm]
    split
    · exact .inr (.inl rfl)
    · split
      · exact .inr (.inl rfl)
      · rename_i hstop hesc
        exact .inr (.inr ⟨by simp [RxUnit.appends, hs, hstop, hesc], rfl⟩)
  | escFrame => exact .inr (.inr ⟨by simp [RxUnit.appends, hs], rfl⟩)
  | escSeek | idle | complete | exhausted => exact .inr (.inl rfl)

theorem byteArm_accLen_le (c : Config) (r : RxUnit) (b : Byte) :
    (byteArm c r.state b (countByte c r)).accLen.toNat ≤ r.accLen.toNat + 1 := by
  obtain h | h | ⟨-, h⟩ := byteArm_accLen_cases c r b <;> rw [h]
  · exact Nat.zero_le _
  · exact Nat.le_succ _
  · rw [BitVec.toNat_add]; exact Nat.mod_le _ _

/-- A cell that lies below `acc_len` after a byte did so before, or it is the one the byte is appended to. -/
theorem lt_accLen_of_byte {c : Config} {r : RxUnit} {b : Byte} {a : Nat} (hb : r.busy = true)
    (h : a < (rxStep c r (.byte b)).accLen.toNat) :
    a < r.accLen.toNat ∨ (a = r.accLen.toNat ∧ r.appends c b = true) := by
  rw [rxStep_byte_of_busy hb, byteStep, capCheck_accLen] at h
  obtain he | he | ⟨happ, he⟩ := byteArm_accLen_cases c r b
  · rw [he] at h; exact absurd h (Nat.not_lt_zero a)
  · rw [he] at h; exact .inl h
  · have hle : (r.accLen + 1).toNat ≤ r.accLen.toNat + 1 := he ▸ byteArm_accLen_le c r b
    rw [he] at h
    by_cases ha : a = r.accLen.toNat
    · exact .inr ⟨ha, happ⟩
    · exact .inl (by omega)

/-- A byte keeps the accumulator's canonical form. -/
theorem wf_acc_of_byte {r : RxUnit} (h : Memory.wf r.acc = true) (c : Config) (b : Byte) :
    Memory.wf (rxStep c r (.byte b)).acc = true := by
  rw [rxStep_byte_acc]
  split
  · exact Memory.wf_write h _ _
  · exact h

theorem byteArm_withAcc (c : Config) (S : RxState) (b : Byte) (r : RxUnit) (m : Memory) :
    ∃ m', byteArm c S b { r with acc := m } = { byteArm c S b r with acc := m' } := by
  cases S with
  | seeking | inframe =>
    simp only [byteArm]
    split
    · exact ⟨_, rfl⟩
    · split <;> exact ⟨_, rfl⟩
  | escSeek | escFrame | idle | complete | exhausted => exact ⟨_, rfl⟩

/-- The cells of `acc` steer nothing: with other cells, every other register takes the same value. -/
theorem rxStep_withAcc (c : Config) (r : RxUnit) (m : Memory) (e : RxEvent) :
    ∃ m', rxStep c { r with acc := m } e = { rxStep c r e with acc := m' } := by
  cases hb : r.busy with
  | false =>
    rw [rxStep_of_not_busy hb, rxStep_of_not_busy (r := { r with acc := m }) hb]
    cases e <;> exact ⟨m, rfl⟩
  | true =>
    cases e with
    | start n => exact ⟨m, by rw [rxStep_start_of_busy hb, rxStep_start_of_busy (r := { r with acc := m }) hb]⟩
    | idle =>
      rw [rxStep_idle_of_busy hb, rxStep_idle_of_busy (r := { r with acc := m }) hb]
      refine ⟨m, ?_⟩
      simp only [idlePoll]
      split <;> rfl
    | byte b =>
      obtain ⟨m', hm'⟩ := byteArm_withAcc c r.state b (countByte c r) m
      rw [rxStep_byte_of_busy hb, rxStep_byte_of_busy (r := { r with acc := m }) hb]
      refine ⟨m', (congrArg (capCheck c) hm').trans ?_⟩
      rw [byteStep]
      simp only [capCheck]
      split <;> rfl

theorem byteCnt_count {c : Config} {r : RxUnit} (hc : c.byteCap < 64) (h : r.byteCnt.toNat < c.byteCap) :
    (r.byteCnt + 1).toNat = r.byteCnt.toNat + 1 := by
  have : (r.byteCnt + 1).toNat = (r.byteCnt.toNat + 1) % 64 := by simp [BitVec.toNat_add]
  omega

theorem waitCnt_count {r : RxUnit} (h : r.waitCnt.toNat < max r.waitLim.toNat 1) :
    (r.waitCnt + 1).toNat = r.waitCnt.toNat + 1 := by
  have : r.waitLim.toNat < 256 := r.waitLim.isLt
  have : (r.waitCnt + 1).toNat = (r.waitCnt.toNat + 1) % 256 := by simp [BitVec.toNat_add]
  omega

/-- Everything a byte does to the counters of a busy unit, whose count does not overflow: it is counted, the wait
counter is kept or cleared, and a unit still busy is short of the cap (R123, R132). -/
theorem rxStep_byte_counts {c : Config} (hc : c.byteCap < 64) {r : RxUnit} (hb : r.busy = true)
    (hcap : r.byteCnt.toNat < c.byteCap) (b : Byte) :
    (rxStep c r (.byte b)).byteCnt.toNat = r.byteCnt.toNat + 1 ∧
      (rxStep c r (.byte b)).waitCnt = (if c.waitReloadOnByte then 0#8 else r.waitCnt) ∧
      ((rxStep c r (.byte b)).busy = true → r.byteCnt.toNat + 1 < c.byteCap) := by
  rw [rxStep_byte_of_busy hb, byteStep, capCheck_byteCnt, capCheck_waitCnt, byteArm_byteCnt, byteArm_waitCnt,
    countByte_byteCnt, countByte_waitCnt, byteCnt_count hc hcap]
  refine ⟨rfl, rfl, fun hbusy => ?_⟩
  obtain ⟨he, hgo⟩ | ⟨he, -, -⟩ := capCheck_cases c (byteArm c r.state b (countByte c r))
  · rw [he] at hbusy
    have hne := hgo.resolve_left (state_ne_of_busy hbusy rfl)
    rw [byteArm_byteCnt, countByte_byteCnt, byteCnt_count hc hcap] at hne
    omega
  · rw [he] at hbusy
    exact Bool.noConfusion hbusy

/-- Everything an idle poll does to the counters of a busy unit, whose count does not overflow: it is counted, and a
unit still busy is short of the limit (R133). -/
theorem rxStep_idle_counts {c : Config} {r : RxUnit} (hb : r.busy = true)
    (hlim : r.waitCnt.toNat < max r.waitLim.toNat 1) :
    (rxStep c r .idle).byteCnt = r.byteCnt ∧ (rxStep c r .idle).waitCnt.toNat = r.waitCnt.toNat + 1 ∧
      ((rxStep c r .idle).busy = true → r.waitCnt.toNat + 1 < r.waitLim.toNat) := by
  rw [rxStep_idle_of_busy hb, idlePoll_byteCnt, idlePoll_waitCnt, waitCnt_count hlim]
  refine ⟨rfl, rfl, fun hbusy => ?_⟩
  by_contra hle
  rw [idlePoll_at_limit (by omega)] at hbusy
  exact Bool.noConfusion hbusy

theorem byteArm_ne_idle {r : RxUnit} (h : r.state ≠ .idle) (c : Config) (b : Byte) :
    (byteArm c r.state b (countByte c r)).state ≠ .idle := by
  cases hs : r.state with
  | idle => exact absurd hs h
  | seeking | inframe =>
    simp only [byteArm]
    split
    · simp
    · split <;> simp [hs]
  | escSeek | escFrame => simp [byteArm]
  | complete | exhausted => simp [byteArm, hs]

/-- No event leads to the state before the first invocation (R135). -/
theorem rxStep_ne_idle {c : Config} {r : RxUnit} (h : r.state ≠ .idle) (e : RxEvent) :
    (rxStep c r e).state ≠ .idle := by
  cases hb : r.busy with
  | false => rw [rxStep_of_not_busy hb]; cases e <;> simp [h]
  | true =>
    cases e with
    | start n => rwa [rxStep_start_of_busy hb]
    | idle =>
      rw [rxStep_idle_of_busy hb]
      unfold idlePoll
      dsimp only
      split
      · simp
      · exact h
    | byte b =>
      rw [rxStep_byte_of_busy hb, byteStep]
      obtain ⟨he, -⟩ | ⟨he, -, -⟩ := capCheck_cases c (byteArm c r.state b (countByte c r))
      · rw [he]; exact byteArm_ne_idle h c b
      · simp [he]

/-- In a frame the stop marker completes it, at the byte cap too (R128). -/
theorem rxStep_stop_of_inframe {r : RxUnit} (hs : r.state = .inframe) (c : Config) :
    rxStep c r (.byte c.stop) = goto .complete (countByte c r) := by
  rw [rxStep_byte_of_busy (r.busy_iff.2 (.inr (.inl hs))), byteStep, hs, byteArm, if_pos rfl]
  exact capCheck_of_complete rfl

/-! ### The loop of `DecodeRun` -/

theorem rxStep_item_of_not_busy {r : RxUnit} (h : r.busy = false) (c : Config) (item : PollItem) :
    rxStep c r item.event = r := by
  rw [rxStep_of_not_busy h]
  cases item <;> rfl

theorem pollLoop_of_not_busy {r : RxUnit} (h : r.busy = false) (c : Config) (script : List PollItem) :
    pollLoop c r script = (r, 0) := by
  cases script <;> simp [pollLoop, h]

theorem pollLoop_cons_of_busy {r : RxUnit} (h : r.busy = true) (c : Config) (item : PollItem) (rest : List PollItem) :
    pollLoop c r (item :: rest) =
      ((pollLoop c (rxStep c r item.event) rest).1, (pollLoop c (rxStep c r item.event) rest).2 + 1) := by
  simp [pollLoop, h]

/-- A loop that is still busy at the end of its script has used every item of it, and goes on with what follows. -/
theorem pollLoop_append_of_busy {c : Config} {r : RxUnit} {script : List PollItem}
    (h : (pollLoop c r script).1.busy = true) (after : List PollItem) :
    pollLoop c r (script ++ after) =
      ((pollLoop c (pollLoop c r script).1 after).1,
        script.length + (pollLoop c (pollLoop c r script).1 after).2) := by
  induction script generalizing r with
  | nil => simp [pollLoop]
  | cons item rest ih =>
    cases hb : r.busy with
    | false => simp [pollLoop_of_not_busy hb, hb] at h
    | true =>
      rw [pollLoop_cons_of_busy hb] at h
      rw [List.cons_append, pollLoop_cons_of_busy hb, pollLoop_cons_of_busy hb, ih h, List.length_cons]
      simp only [Prod.mk.injEq, true_and]
      omega

/-- What follows the end of an invocation is not looked at. -/
theorem pollLoop_append_of_not_busy {c : Config} {r : RxUnit} {script : List PollItem}
    (h : (pollLoop c r script).1.busy = false) (after : List PollItem) :
    pollLoop c r (script ++ after) = pollLoop c r script := by
  induction script generalizing r with
  | nil => exact pollLoop_of_not_busy h c after
  | cons item rest ih =>
    cases hb : r.busy with
    | false => rw [pollLoop_of_not_busy hb, pollLoop_of_not_busy hb]
    | true =>
      rw [pollLoop_cons_of_busy hb] at h
      rw [List.cons_append, pollLoop_cons_of_busy hb, pollLoop_cons_of_busy hb, ih h]

theorem pollLoop_used_of_busy {c : Config} {r : RxUnit} {script : List PollItem}
    (h : (pollLoop c r script).1.busy = true) : (pollLoop c r script).2 = script.length := by
  have := pollLoop_append_of_busy h []
  rw [List.append_nil] at this
  rw [this]
  rfl

theorem pollLoop_used_le (c : Config) (r : RxUnit) (script : List PollItem) :
    (pollLoop c r script).2 ≤ script.length := by
  induction script generalizing r with
  | nil => rfl
  | cons item rest ih =>
    cases hb : r.busy with
    | false => simp [pollLoop_of_not_busy hb]
    | true => rw [pollLoop_cons_of_busy hb]; exact Nat.succ_le_succ (ih _)

/-- What holds where the loop begins and is kept by every item that a busy unit uses holds where the loop ends, of the
registers and the items used. -/
theorem pollLoop_induction {c : Config} {P : RxUnit → List PollItem → Prop}
    (hstep : ∀ r used item, r.busy = true → P r used → P (rxStep c r item.event) (used ++ [item]))
    (script : List PollItem) {r : RxUnit} {used : List PollItem} (h : P r used) :
    P (pollLoop c r script).1 (used ++ script.take (pollLoop c r script).2) := by
  induction script generalizing r used with
  | nil => simpa [pollLoop] using h
  | cons item rest ih =>
    cases hb : r.busy with
    | false => simpa [pollLoop_of_not_busy hb] using h
    | true =>
      have := ih (hstep r used item hb h)
      simpa [pollLoop_cons_of_busy hb] using this

theorem decodeRun_of_not_busy {r0 : RxUnit} (h : r0.busy = false) (c : Config) (n : Wait) (script : List PollItem) :
    decodeRun c r0 n script =
      ((pollLoop c (startInvocation n r0) script).1.result, (pollLoop c (startInvocation n r0) script).2,
        (pollLoop c (startInvocation n r0) script).1) := by
  rw [decodeRun, rxStep_of_not_busy h]

/-- A loop that stays busy over `script` and ends with the next item: the run uses nothing after it. -/
theorem decodeRun_of_last {c : Config} {r0 r t : RxUnit} {n : Wait} {script : List PollItem} {item : PollItem}
    (h0 : r0.busy = false) (hr : (pollLoop c (startInvocation n r0) script).1 = r) (hb : r.busy = true)
    (ht : rxStep c r item.event = t) (hend : t.busy = false) (after : List PollItem) :
    decodeRun c r0 n (script ++ item :: after) = (t.result, script.length + 1, t) := by
  subst hr ht
  rw [decodeRun_of_not_busy h0, pollLoop_append_of_busy hb, pollLoop_cons_of_busy hb, pollLoop_of_not_busy hend]

theorem RxUnit.result_of_complete {r : RxUnit} (h : r.state = .complete) : r.result = .frame r.frame := if_pos h

theorem RxUnit.result_of_exhausted {r : RxUnit} (h : r.state = .exhausted) : r.result = .absent := by
  rw [RxUnit.result, if_neg (by simp [h]), if_pos h]

theorem RxUnit.result_of_busy {r : RxUnit} (h : r.busy = true) : r.result = .pending := by
  rw [RxUnit.result, if_neg (state_ne_of_busy h rfl), if_neg (state_ne_of_busy h rfl)]

/-! ### The bytes and the idle polls of a script -/

@[simp] theorem scriptBytes_nil : scriptBytes [] = [] := rfl

@[simp] theorem scriptBytes_byte_cons (b : Byte) (script : List PollItem) :
    scriptBytes (.byte b :: script) = b :: scriptBytes script := rfl

@[simp] theorem scriptBytes_idle_cons (script : List PollItem) :
    scriptBytes (.idle :: script) = scriptBytes script := rfl

@[simp] theorem scriptBytes_append (xs ys : List PollItem) :
    scriptBytes (xs ++ ys) = scriptBytes xs ++ scriptBytes ys :=
  List.flatMap_append

@[simp] theorem scriptIdles_nil : scriptIdles [] = 0 := rfl

@[simp] theorem scriptIdles_byte_cons (b : Byte) (script : List PollItem) :
    scriptIdles (.byte b :: script) = scriptIdles script := by simp [scriptIdles]

@[simp] theorem scriptIdles_idle_cons (script : List PollItem) :
    scriptIdles (.idle :: script) = scriptIdles script + 1 := by simp [scriptIdles]

@[simp] theorem scriptIdles_append (xs ys : List PollItem) : scriptIdles (xs ++ ys) = scriptIdles xs + scriptIdles ys :=
  List.count_append

/-- Every item of a script is a byte or an idle poll. -/
theorem length_eq_bytes_add_idles (script : List PollItem) :
    script.length = (scriptBytes script).length + scriptIdles script := by
  induction script with
  | nil => rfl
  | cons item rest ih => cases item <;> simp [ih] <;> omega

/-! ### What the wire bytes mean, without the registers that bound an invocation -/

/-- The registers that the meaning of a wire byte is about: `rx_state` and the bytes decoded so far. -/
def RxUnit.view (r : RxUnit) : RxState × List Byte := (r.state, r.frame)

/-- What one wire byte makes of them, short of the byte cap (R124 to R131). -/
def receiveByte (c : Config) : RxState × List Byte → Byte → RxState × List Byte
  | (.seeking, f), b => if b = c.start then (.inframe, []) else if b = c.esc then (.escSeek, f) else (.seeking, f)
  | (.escSeek, f), _ => (.seeking, f)
  | (.inframe, f), b =>
    if b = c.stop then (.complete, f) else if b = c.esc then (.escFrame, f) else (.inframe, f ++ [b])
  | (.escFrame, f), b => (.inframe, f ++ [b])
  | (S, f), _ => (S, f)

/-- What a sequence of wire bytes makes of them. -/
def receive (c : Config) (v : RxState × List Byte) (bytes : List Byte) : RxState × List Byte :=
  bytes.foldl (receiveByte c) v

@[simp] theorem receive_nil (c : Config) (v : RxState × List Byte) : receive c v [] = v := rfl

@[simp] theorem receive_cons (c : Config) (v : RxState × List Byte) (b : Byte) (bytes : List Byte) :
    receive c v (b :: bytes) = receive c (receiveByte c v b) bytes := rfl

theorem receive_append (c : Config) (v : RxState × List Byte) (xs ys : List Byte) :
    receive c v (xs ++ ys) = receive c (receive c v xs) ys := List.foldl_append

/-- Quiet noise leaves the unit seeking (R140 item 2). -/
theorem receive_quietNoise {c : Config} {f : List Byte} {pending : Bool} {g : List Byte}
    (h : quietNoise c pending g = true) :
    receive c (if pending then .escSeek else .seeking, f) g = (.seeking, f) := by
  induction g generalizing pending with
  | nil => cases pending <;> simp_all [quietNoise]
  | cons b g ih =>
    cases pending with
    | true => exact ih (pending := false) h
    | false =>
      simp only [quietNoise, Bool.and_eq_true, Bool.not_eq_true', beq_eq_false_iff_ne] at h
      obtain ⟨hstart, hrest⟩ := h
      have hb : receiveByte c (.seeking, f) b = (if b == c.esc then .escSeek else .seeking, f) := by
        by_cases hesc : b = c.esc
        · have hne : c.esc ≠ c.start := hesc ▸ hstart
          simp [receiveByte, hesc, hne]
        · simp [receiveByte, hstart, hesc]
      simpa [hb] using ih hrest

/-- Inside a frame the unit of a payload byte is received as that byte (R71). -/
theorem receive_stuffByte {c : Config} (hc : c.MarkersDistinct) (f : List Byte) (b : Byte) :
    receive c (.inframe, f) (stuffByte c b) = (.inframe, f ++ [b]) := by
  obtain ⟨-, -, hstop⟩ := hc
  cases hm : isMarker c b with
  | true => simp [stuffByte, hm, receiveByte, hstop.symm]
  | false =>
    obtain ⟨-, h1, h2⟩ := (not_isMarker_iff c b).1 hm
    simp [stuffByte, hm, receiveByte, h1, h2]

theorem receive_payload {c : Config} (hc : c.MarkersDistinct) (f p : List Byte) :
    receive c (.inframe, f) (p.flatMap (stuffByte c)) = (.inframe, f ++ p) := by
  induction p generalizing f with
  | nil => simp
  | cons b p ih => rw [List.flatMap_cons, receive_append, receive_stuffByte hc, ih, List.append_assoc]; rfl

/-! ### The registers receive as their view does -/

/-- An arm does to the view what `receiveByte` says, wherever `acc_len` does not overflow. -/
theorem view_byteArm {c : Config} {r : RxUnit} (hwf : Memory.wf r.acc = true) (hlen : r.accLen.toNat < 63) (b : Byte) :
    (byteArm c r.state b (countByte c r)).view = receiveByte c r.view b := by
  have happ : (append b (countByte c r)).frame = r.frame ++ [b] := RxUnit.frame_append b hwf hlen
  cases hs : r.state with
  | seeking =>
    simp only [byteArm, RxUnit.view, receiveByte, hs]
    split
    · simp [RxUnit.frame]
    · split <;> simp [RxUnit.frame, hs]
  | inframe =>
    simp only [byteArm, RxUnit.view, receiveByte, hs]
    split
    · rfl
    · split
      · rfl
      · rw [happ, append_state, countByte_state, hs]
  | escFrame =>
    have : (goto .inframe (append b (countByte c r))).frame = (append b (countByte c r)).frame := rfl
    simp [byteArm, RxUnit.view, receiveByte, hs, this, happ]
  | escSeek => simp only [RxUnit.view, hs]; rfl
  | idle | complete | exhausted => simp only [RxUnit.view, hs, byteArm, id, countByte_state]; rfl

/-- What it takes for `bytes` more bytes to arrive short of the byte cap and `idles` more idle polls to pass short of
the limit, and for the bytes to be appended where they can be read back. -/
structure Receiving (c : Config) (bytes idles : Nat) (r : RxUnit) : Prop where
  accCanonical : Memory.wf r.acc = true
  lenCounted : r.accLen.toNat ≤ r.byteCnt.toNat
  belowCap : r.byteCnt.toNat + bytes < c.byteCap
  belowLimit : r.waitCnt.toNat + idles < r.waitLim.toNat

theorem receiving_startInvocation {c : Config} {n : Wait} {r : RxUnit} {bytes idles : Nat}
    (hwf : Memory.wf r.acc = true) (hbytes : bytes < c.byteCap) (hidles : idles < n.toNat) :
    Receiving c bytes idles (startInvocation n r) where
  accCanonical := hwf
  lenCounted := Nat.le_refl _
  belowCap := by simpa using hbytes
  belowLimit := by simpa using hidles

/-- Short of the byte cap a byte is counted and received, and nothing else happens. -/
theorem Receiving.byte {c : Config} (hc : c.byteCap < 64) {bytes idles : Nat} {r : RxUnit}
    (h : Receiving c (bytes + 1) idles r) (hb : r.busy = true) (b : Byte) :
    Receiving c bytes idles (rxStep c r (.byte b)) ∧ (rxStep c r (.byte b)).view = receiveByte c r.view b := by
  have hcap := h.belowCap
  have hlen := h.lenCounted
  have hcount : (r.byteCnt + 1).toNat = r.byteCnt.toNat + 1 := byteCnt_count hc (by omega)
  have hstep : rxStep c r (.byte b) = byteArm c r.state b (countByte c r) := by
    rw [rxStep_byte_of_busy hb, byteStep, capCheck_of_below]
    rw [byteArm_byteCnt, countByte_byteCnt, hcount]; omega
  have hwf := wf_acc_of_byte h.accCanonical c b
  rw [hstep] at hwf ⊢
  refine ⟨?_, view_byteArm h.accCanonical (by omega) b⟩
  exact {
    accCanonical := hwf
    lenCounted := by
      have := byteArm_accLen_le c r b
      rw [byteArm_byteCnt, countByte_byteCnt, hcount]; omega
    belowCap := by rw [byteArm_byteCnt, countByte_byteCnt, hcount]; omega
    belowLimit := by
      have := h.belowLimit
      rw [byteArm_waitCnt, byteArm_waitLim, countByte_waitCnt, countByte_waitLim]
      split
      · rw [BitVec.toNat_ofNat]; omega
      · exact this }

/-- Short of the limit an idle poll is counted, and nothing else happens. -/
theorem Receiving.idle {c : Config} {bytes idles : Nat} {r : RxUnit} (h : Receiving c bytes (idles + 1) r)
    (hb : r.busy = true) :
    Receiving c bytes idles (rxStep c r .idle) ∧ (rxStep c r .idle).view = r.view := by
  have hlim := h.belowLimit
  have hcount : (r.waitCnt + 1).toNat = r.waitCnt.toNat + 1 := waitCnt_count (by omega)
  rw [rxStep_idle_of_busy hb, idlePoll_below_limit (by omega)]
  exact ⟨{ h with belowLimit := by dsimp only; omega }, rfl⟩

theorem receive_of_not_busy {r : RxUnit} (h : r.busy = false) (c : Config) (bytes : List Byte) :
    receive c r.view bytes = r.view := by
  induction bytes with
  | nil => rfl
  | cons b bytes ih =>
    have hb : receiveByte c r.view b = r.view := by
      obtain hs | hs | hs := r.not_busy_iff.1 h <;> simp only [RxUnit.view, hs, receiveByte]
    rw [receive_cons, hb, ih]

/-- A script with fewer bytes than the cap leaves and fewer idle polls than the limit leaves is received whole. -/
theorem view_pollLoop {c : Config} (hc : c.byteCap < 64) {script : List PollItem} {r : RxUnit}
    (h : Receiving c (scriptBytes script).length (scriptIdles script) r) :
    (pollLoop c r script).1.view = receive c r.view (scriptBytes script) := by
  induction script generalizing r with
  | nil => rfl
  | cons item rest ih =>
    cases hb : r.busy with
    | false => rw [pollLoop_of_not_busy hb, receive_of_not_busy hb]
    | true =>
      rw [pollLoop_cons_of_busy hb]
      cases item with
      | byte b =>
        obtain ⟨hrest, hview⟩ := h.byte hc hb b
        rw [PollItem.event, ih hrest, hview, scriptBytes_byte_cons, receive_cons]
      | idle =>
        rw [scriptBytes_idle_cons, scriptIdles_idle_cons] at h
        obtain ⟨hrest, hview⟩ := h.idle hb
        rw [PollItem.event, ih hrest, hview, scriptBytes_idle_cons]

/-- Quiet noise and then all of a frame but its stop marker are received as the frame's payload. -/
theorem receive_noise_frame {c : Config} (hc : c.MarkersDistinct) {g : List Byte} (hg : quietNoise c false g = true)
    (f p : List Byte) :
    receive c (.seeking, f) (g ++ c.start :: p.flatMap (stuffByte c)) = (.inframe, p) := by
  have hstart : receiveByte c (.seeking, f) c.start = (.inframe, []) := if_pos rfl
  have hnoise : receive c (.seeking, f) g = (.seeking, f) := receive_quietNoise (pending := false) hg
  rw [receive_append, hnoise, receive_cons, hstart, receive_payload hc, List.nil_append]

/-- The run over quiet noise and a frame (R140 items 1 and 2): with fewer idle polls than the limit before the frame's
stop marker, and noise and frame within the byte cap, it returns the payload and uses exactly those items. -/
theorem decodeRun_noise_frame {c : Config} (hm : c.MarkersDistinct) (hc : c.CapFits) {r0 : RxUnit} {n : Wait}
    {g p : List Byte} {before : List PollItem} (hb : r0.busy = false) (hwf : Memory.wf r0.acc = true)
    (hg : quietNoise c false g = true) (hbytes : scriptBytes before = g ++ stuff c p)
    (hlast : ∃ b, before.getLast? = some (.byte b)) (hcap : g.length + (stuff c p).length ≤ c.byteCap)
    (hidles : scriptIdles before < n.toNat) (after : List PollItem) :
    ∃ r, decodeRun c r0 n (before ++ after) = (.frame p, before.length, r) := by
  obtain ⟨b, hlast⟩ := hlast
  obtain ⟨script, rfl⟩ := List.getLast?_eq_some_iff.1 hlast
  obtain ⟨hscript, rfl⟩ : scriptBytes script = g ++ c.start :: p.flatMap (stuffByte c) ∧ b = c.stop := by
    rw [scriptBytes_append, stuff, ← List.cons_append, ← List.append_assoc] at hbytes
    simpa using List.append_inj' hbytes rfl
  have hlength : (scriptBytes script).length + 1 = g.length + (stuff c p).length := by
    rw [← List.length_append, ← hbytes, scriptBytes_append, List.length_append]
    rfl
  have hrec : Receiving c (scriptBytes script).length (scriptIdles script) (startInvocation n r0) :=
    receiving_startInvocation hwf (by omega) (by simpa using hidles)
  obtain ⟨hs, hf⟩ : (pollLoop c (startInvocation n r0) script).1.state = .inframe ∧
      (pollLoop c (startInvocation n r0) script).1.frame = p := by
    rw [← Prod.mk.injEq]
    exact (view_pollLoop hc.2 hrec).trans (hscript ▸ receive_noise_frame hm hg _ p)
  refine ⟨goto .complete (countByte c (pollLoop c (startInvocation n r0) script).1), ?_⟩
  rw [List.append_assoc, List.singleton_append, decodeRun_of_last hb rfl ((RxUnit.busy_iff _).2 (.inr (.inl hs)))
    (item := .byte c.stop) (rxStep_stop_of_inframe hs c) rfl, RxUnit.result_of_complete (goto_state _ _),
    List.length_append, ← hf]
  rfl

/-- Settles O36: `decodeRun_noise_frame` is this statement. -/
theorem resynchronisesAfterNoise : Obligations.ResynchronisesAfterNoise := by
  unfold Obligations.ResynchronisesAfterNoise
  exact fun c hm hc r0 n g p before after hb hwf hg hbytes hlast hcap hidles =>
    decodeRun_noise_frame hm hc hb hwf hg hbytes hlast hcap hidles after

/-! ### What an invocation has used -/

/-- The registers of an invocation with the limit `n` after it has used the items `used` (R138, R140 item 4). -/
structure Spent (c : Config) (n : Wait) (r : RxUnit) (used : List PollItem) : Prop where
  begun : r.state ≠ .idle
  limit : r.waitLim = n
  bytes : r.byteCnt.toNat = (scriptBytes used).length
  bytesCapped : r.byteCnt.toNat ≤ c.byteCap
  waitCapped : r.waitCnt.toNat ≤ max n.toNat 1
  itemsCapped : used.length ≤ c.byteCap * max n.toNat 1
  belowCap : r.busy = true → r.byteCnt.toNat < c.byteCap
  belowLimit : r.busy = true → r.waitCnt.toNat < max n.toNat 1
  /-- before each byte, idle polls fewer than the limit -/
  items : r.busy = true → used.length ≤ r.byteCnt.toNat * max n.toNat 1 + r.waitCnt.toNat
  idles : c.waitReloadOnByte = false → scriptIdles used = r.waitCnt.toNat

theorem spent_startInvocation {c : Config} (hc : c.CapFits) (n : Wait) (r : RxUnit) :
    Spent c n (startInvocation n r) [] := by
  have hcap : 0 < c.byteCap := Nat.lt_of_lt_of_le Nat.two_pos hc.1
  constructor <;> simp [hcap]

/-- A busy unit has not used all that the bytes up to the next one allow, and so not all that the cap allows. -/
theorem Spent.length_succ_le {c : Config} {n : Wait} {r : RxUnit} {used : List PollItem} (h : Spent c n r used)
    (hb : r.busy = true) : used.length + 1 ≤ (r.byteCnt.toNat + 1) * max n.toNat 1 ∧
      (r.byteCnt.toNat + 1) * max n.toNat 1 ≤ c.byteCap * max n.toNat 1 := by
  have hitems := h.items hb
  have hlim := h.belowLimit hb
  refine ⟨?_, Nat.mul_le_mul_right _ (h.belowCap hb)⟩
  rw [Nat.succ_mul]
  omega

theorem Spent.byte {c : Config} (hc : c.byteCap < 64) {n : Wait} {r : RxUnit} {used : List PollItem}
    (h : Spent c n r used) (hb : r.busy = true) (b : Byte) : Spent c n (rxStep c r (.byte b)) (used ++ [.byte b]) := by
  obtain ⟨hbytes, hwait, hbelow⟩ := rxStep_byte_counts hc hb (h.belowCap hb) b
  obtain ⟨hroom, hmost⟩ := h.length_succ_le hb
  have hcap := h.belowCap hb
  have hlim := h.belowLimit hb
  have hwaitLe : (rxStep c r (.byte b)).waitCnt.toNat ≤ r.waitCnt.toNat := by
    rw [hwait]; split <;> simp
  exact {
    begun := rxStep_ne_idle h.begun _
    limit := (rxStep_byte_waitLim c r b).trans h.limit
    bytes := by simp [hbytes, h.bytes]
    bytesCapped := by omega
    waitCapped := by omega
    itemsCapped := by rw [List.length_append, List.length_singleton]; omega
    belowCap := fun hbusy => by rw [hbytes]; exact hbelow hbusy
    belowLimit := fun _ => by omega
    items := fun _ => by rw [hbytes, List.length_append, List.length_singleton]; omega
    idles := fun hreload => by simp [hwait, hreload, h.idles hreload] }

theorem Spent.idle {c : Config} {n : Wait} {r : RxUnit} {used : List PollItem} (h : Spent c n r used)
    (hb : r.busy = true) : Spent c n (rxStep c r .idle) (used ++ [.idle]) := by
  have hlim := h.belowLimit hb
  obtain ⟨hbytes, hwait, hbelow⟩ := rxStep_idle_counts (c := c) hb (h.limit ▸ hlim)
  obtain ⟨hroom, hmost⟩ := h.length_succ_le hb
  have hitems := h.items hb
  rw [h.limit] at hbelow
  exact {
    begun := rxStep_ne_idle h.begun _
    limit := (rxStep_idle_waitLim c r).trans h.limit
    bytes := by simp [hbytes, h.bytes]
    bytesCapped := by rw [hbytes]; exact h.bytesCapped
    waitCapped := by omega
    itemsCapped := by rw [List.length_append, List.length_singleton]; omega
    belowCap := fun _ => by rw [hbytes]; exact h.belowCap hb
    belowLimit := fun hbusy => by have := hbelow hbusy; omega
    items := fun _ => by rw [hbytes, hwait, List.length_append, List.length_singleton]; omega
    idles := fun hreload => by simp [hwait, h.idles hreload] }

theorem spent_pollLoop {c : Config} (hc : c.CapFits) (n : Wait) (r0 : RxUnit) (script : List PollItem) :
    Spent c n (pollLoop c (startInvocation n r0) script).1
      (script.take (pollLoop c (startInvocation n r0) script).2) := by
  refine pollLoop_induction (P := Spent c n) ?_ script (spent_startInvocation hc n r0)
  intro r used item hb h
  cases item with
  | byte b => exact h.byte hc.2 hb b
  | idle => exact h.idle hb

/-- Settles O35: the noise is empty, and every byte used is counted. -/
theorem roundTrip : Obligations.RoundTrip := by
  unfold Obligations.RoundTrip
  intro c hm hc r0 n p before after hb hwf hbytes hlast hcap hidles
  obtain ⟨r, hrun⟩ := decodeRun_noise_frame hm hc (g := []) hb hwf rfl hbytes hlast (by simpa using hcap) hidles after
  refine ⟨r, hrun, ?_⟩
  rw [decodeRun_of_not_busy hb] at hrun
  simp only [Prod.mk.injEq] at hrun
  obtain ⟨-, hused, rfl⟩ := hrun
  rw [(spent_pollLoop hc n r0 _).bytes, hused, List.take_left, hbytes]

/-! ### Invocations end -/

/-- Of a loop that ends, a beginning of the script suffices exactly if it holds every item used. -/
theorem pollLoop_ends_iff_used_le {c : Config} {r : RxUnit} {script after : List PollItem}
    (h : (pollLoop c r (script ++ after)).1.busy = false) :
    (pollLoop c r script).1.busy = false ↔ (pollLoop c r (script ++ after)).2 ≤ script.length := by
  cases hb : (pollLoop c r script).1.busy with
  | false => simpa [pollLoop_append_of_not_busy hb] using pollLoop_used_le c r script
  | true =>
    rw [pollLoop_append_of_busy hb] at h ⊢
    cases after with
    | nil => exact Bool.noConfusion (hb.symm.trans h)
    | cons item rest => rw [pollLoop_cons_of_busy hb]; simp

theorem RxUnit.result_ne_pending {r : RxUnit} (hb : r.busy = false) (hs : r.state ≠ .idle) : r.result ≠ .pending := by
  obtain h | h | h := r.not_busy_iff.1 hb
  · exact absurd h hs
  · rw [RxUnit.result_of_complete h]; exact RunResult.noConfusion
  · rw [RxUnit.result_of_exhausted h]; exact RunResult.noConfusion

section
variable {c : Config} (hc : c.CapFits) (n : Wait) (r0 : RxUnit)
include hc

/-- A unit still busy has used all of the script, which is shorter than cap and limit allow. -/
theorem length_lt_of_busy {script : List PollItem} (hb : (pollLoop c (startInvocation n r0) script).1.busy = true) :
    script.length < c.byteCap * max n.toNat 1 ∧
      (c.waitReloadOnByte = false → script.length < c.byteCap + max n.toNat 1) := by
  have hspent := spent_pollLoop hc n r0 script
  rw [pollLoop_used_of_busy hb, List.take_length] at hspent
  obtain ⟨hroom, hmost⟩ := hspent.length_succ_le hb
  refine ⟨by omega, fun hreload => ?_⟩
  have hcap := hspent.belowCap hb
  have hlim := hspent.belowLimit hb
  rw [length_eq_bytes_add_idles, hspent.idles hreload, ← hspent.bytes]
  omega

/-- The loop over a script that is long enough ends. -/
theorem ends_of_length {script : List PollItem} (hlength : c.byteCap * max n.toNat 1 ≤ script.length ∨
    (c.waitReloadOnByte = false ∧ c.byteCap + max n.toNat 1 ≤ script.length)) :
    (pollLoop c (startInvocation n r0) script).1.busy = false := by
  by_contra hb
  obtain ⟨hitems, hidles⟩ := length_lt_of_busy hc n r0 (Bool.eq_true_of_not_eq_false hb)
  obtain hlength | ⟨hreload, hlength⟩ := hlength
  · omega
  · have := hidles hreload; omega

theorem result_ne_pending_of_ends {script : List PollItem}
    (hb : (pollLoop c (startInvocation n r0) script).1.busy = false) :
    (pollLoop c (startInvocation n r0) script).1.result ≠ .pending :=
  RxUnit.result_ne_pending hb (spent_pollLoop hc n r0 script).begun

/-- The run over a finite script: what it can use, and when it ends. -/
theorem decodeRun_bounded (h0 : r0.busy = false) (script : List PollItem) :
    let run := decodeRun c r0 n script
    (scriptBytes (script.take run.2.1)).length ≤ c.byteCap ∧
    run.2.1 ≤ c.byteCap * max n.toNat 1 ∧
    (c.byteCap * max n.toNat 1 ≤ script.length → run.1 ≠ .pending) ∧
    (c.waitReloadOnByte = false →
      scriptIdles (script.take run.2.1) ≤ max n.toNat 1 ∧
      (c.byteCap + max n.toNat 1 ≤ script.length → run.1 ≠ .pending)) := by
  rw [decodeRun_of_not_busy h0]
  have hspent := spent_pollLoop hc n r0 script
  have ends := fun hlength => result_ne_pending_of_ends hc n r0 (ends_of_length hc n r0 (script := script) hlength)
  refine ⟨hspent.bytes ▸ hspent.bytesCapped, ?_, fun h => ends (.inl h), fun hreload =>
    ⟨hspent.idles hreload ▸ hspent.waitCapped, fun h => ends (.inr ⟨hreload, h⟩)⟩⟩
  simpa [List.length_take, Nat.min_eq_left (pollLoop_used_le _ _ _)] using hspent.itemsCapped

/-- The run over an infinite script: its first `runBound` items are enough, and so are any first items that hold those
used. -/
theorem decodeRunForever_ends (h0 : r0.busy = false) (script : Nat → PollItem) :
    let run := decodeRunForever c r0 n script
    run.1 ≠ .pending ∧
    (∀ k, run.2.1 ≤ k → decodeRun c r0 n ((List.range k).map script) = run) ∧
    (∀ k, k < run.2.1 → (decodeRun c r0 n ((List.range k).map script)).1 = .pending) := by
  have hends : (pollLoop c (startInvocation n r0) ((List.range (runBound c n)).map script)).1.busy = false :=
    ends_of_length hc n r0 (.inl (by rw [List.length_map, List.length_range]; rfl))
  have hextend : ∀ {j k}, j ≤ k → ∃ after, (List.range k).map script = (List.range j).map script ++ after := by
    intro j k hjk
    obtain ⟨d, rfl⟩ := Nat.exists_eq_add_of_le hjk
    exact ⟨_, by rw [List.range_add, List.map_append]⟩
  have hiff : ∀ {k}, k ≤ runBound c n →
      ((pollLoop c (startInvocation n r0) ((List.range k).map script)).1.busy = false ↔
        (pollLoop c (startInvocation n r0) ((List.range (runBound c n)).map script)).2 ≤ k) := by
    intro k hk
    obtain ⟨after, hafter⟩ := hextend hk
    rw [hafter] at hends ⊢
    simpa using pollLoop_ends_iff_used_le hends
  rw [decodeRunForever, decodeRun_of_not_busy h0]
  dsimp only
  refine ⟨result_ne_pending_of_ends hc n r0 hends, fun k hk => ?_, fun k hk => ?_⟩
  · rw [decodeRun_of_not_busy h0]
    obtain hle | hle := Nat.le_total (runBound c n) k
    · obtain ⟨after, hafter⟩ := hextend hle
      rw [hafter, pollLoop_append_of_not_busy hends]
    · obtain ⟨after, hafter⟩ := hextend hle
      rw [hafter, pollLoop_append_of_not_busy ((hiff hle).2 hk)]
  · have hused := pollLoop_used_le c (startInvocation n r0) ((List.range (runBound c n)).map script)
    rw [List.length_map, List.length_range] at hused
    rw [decodeRun_of_not_busy h0]
    refine RxUnit.result_of_busy (Bool.eq_true_of_not_eq_false fun hb => ?_)
    have := (hiff (by omega)).1 hb
    omega

end

/-- Settles O40, from `decodeRun_bounded` and `decodeRunForever_ends`. -/
theorem invocationsAreBounded : Obligations.InvocationsAreBounded := by
  unfold Obligations.InvocationsAreBounded
  exact fun c hc r0 n h0 => ⟨decodeRun_bounded hc n r0 h0, decodeRunForever_ends hc n r0 h0⟩

/-! ### Silence -/

/-- Idle polls short of the limit are only counted. -/
theorem pollLoop_silence (c : Config) (n : Wait) (r0 : RxUnit) (k : Nat) (h : k < n.toNat) :
    pollLoop c (startInvocation n r0) (List.replicate k .idle) =
      ({ startInvocation n r0 with waitCnt := BitVec.ofNat 8 k }, k) := by
  induction k with
  | zero => rfl
  | succ k ih =>
    have hk := ih (by omega)
    have hn := n.isLt
    rw [List.replicate_succ', pollLoop_append_of_busy (by rw [hk]; rfl), hk, pollLoop_cons_of_busy rfl, PollItem.event,
      rxStep_idle_of_busy rfl, idlePoll_below_limit (by simp; omega), List.length_replicate]
    simp [pollLoop, BitVec.ofNat_add]

/-- Settles O39: before the last of the `n` polls the unit is still seeking, and that one gives up. -/
theorem silenceGivesUpAtTheLimit : Obligations.SilenceGivesUpAtTheLimit := by
  unfold Obligations.SilenceGivesUpAtTheLimit
  intro c r0 n h0 hn
  have hsilence := pollLoop_silence c n r0 (n.toNat - 1) (by omega)
  have hcount : BitVec.ofNat 8 (n.toNat - 1) + 1 = n := by
    apply BitVec.eq_of_toNat_eq; simp; omega
  have hlast : rxStep c { startInvocation n r0 with waitCnt := BitVec.ofNat 8 (n.toNat - 1) } PollItem.idle.event =
      giveUp .waitLimit { startInvocation n r0 with waitCnt := n } := by
    have := n.isLt
    rw [PollItem.event, rxStep_idle_of_busy rfl, idlePoll_at_limit (by simp; omega)]
    simp only [hcount]
  refine ⟨fun after => ⟨giveUp .waitLimit { startInvocation n r0 with waitCnt := n }, ?_, rfl, rfl, rfl, rfl⟩,
    ⟨_, by rw [decodeRun_of_not_busy h0, hsilence, RxUnit.result_of_busy rfl]⟩⟩
  have hsplit : List.replicate n.toNat PollItem.idle = List.replicate (n.toNat - 1) .idle ++ [.idle] := by
    rw [← List.replicate_succ', Nat.sub_add_cancel hn]
  rw [hsplit, List.append_assoc, List.singleton_append, decodeRun_of_last h0 (congrArg Prod.fst hsilence) rfl hlast rfl,
    RxUnit.result_of_exhausted rfl, List.length_replicate, Nat.sub_add_cancel hn]

/-! ### Nothing is retained -/

/-- Two units that an invocation cannot tell apart: they differ at most in the accumulator's cells, and the cells below
`acc_len` read the same. -/
structure Alike (r1 r2 : RxUnit) : Prop where
  registers : r2 = { r1 with acc := r2.acc }
  cells : ∀ a, a < r1.accLen.toNat → Memory.read r1.acc a = Memory.read r2.acc a
  canonical1 : Memory.wf r1.acc = true
  canonical2 : Memory.wf r2.acc = true

theorem Alike.accLen {r1 r2 : RxUnit} (h : Alike r1 r2) : r2.accLen = r1.accLen := by rw [h.registers]

theorem Alike.busy {r1 r2 : RxUnit} (h : Alike r1 r2) : r2.busy = r1.busy := by rw [h.registers]; rfl

theorem Alike.appends {r1 r2 : RxUnit} (h : Alike r1 r2) (c : Config) (b : Byte) :
    r2.appends c b = r1.appends c b := by rw [h.registers]; rfl

theorem Alike.result {r1 r2 : RxUnit} (h : Alike r1 r2) : r1.result = r2.result := by
  have hframe : r1.frame = r2.frame := by
    rw [RxUnit.frame, RxUnit.frame, h.accLen]
    exact List.map_congr_left fun a ha => h.cells a (List.mem_range.1 ha)
  have hstate : r2.state = r1.state := by rw [h.registers]
  rw [RxUnit.result, RxUnit.result, hframe, hstate]

theorem alike_startInvocation {r1 r2 : RxUnit} (h1 : Memory.wf r1.acc = true) (h2 : Memory.wf r2.acc = true)
    (n : Wait) :
    Alike (startInvocation n r1) (startInvocation n r2) where
  registers := rfl
  cells := fun a ha => absurd ha (Nat.not_lt_zero a)
  canonical1 := h1
  canonical2 := h2

theorem Alike.byte {c : Config} {r1 r2 : RxUnit} (h : Alike r1 r2) (hb : r1.busy = true) (b : Byte) :
    Alike (rxStep c r1 (.byte b)) (rxStep c r2 (.byte b)) := by
  obtain ⟨m, hm⟩ := rxStep_withAcc c r1 r2.acc (.byte b)
  rw [← h.registers] at hm
  refine ⟨by rw [hm], fun a ha => ?_, wf_acc_of_byte h.canonical1 c b, wf_acc_of_byte h.canonical2 c b⟩
  have hbelow := lt_accLen_of_byte hb ha
  rw [rxStep_byte_acc, rxStep_byte_acc, h.appends, h.accLen]
  cases happ : r1.appends c b with
  | false => exact h.cells a (hbelow.resolve_right (by simp [happ]))
  | true =>
    by_cases hlast : a = r1.accLen.toNat
    · subst hlast
      exact (Memory.read_write_same h.canonical1).trans (Memory.read_write_same h.canonical2).symm
    · rw [if_pos rfl, if_pos rfl, Memory.read_write_of_ne hlast, Memory.read_write_of_ne hlast]
      exact h.cells a (hbelow.resolve_right fun hr => hlast hr.1)

theorem Alike.idle {c : Config} {r1 r2 : RxUnit} (h : Alike r1 r2) (hb : r1.busy = true) :
    Alike (rxStep c r1 .idle) (rxStep c r2 .idle) := by
  obtain ⟨m, hm⟩ := rxStep_withAcc c r1 r2.acc .idle
  rw [← h.registers] at hm
  have hlen : (rxStep c r1 .idle).accLen = r1.accLen := by rw [rxStep_idle_of_busy hb, idlePoll_accLen]
  refine ⟨by rw [hm], ?_, ?_, ?_⟩
  · rw [hlen, rxStep_idle_acc, rxStep_idle_acc]; exact h.cells
  · rw [rxStep_idle_acc]; exact h.canonical1
  · rw [rxStep_idle_acc]; exact h.canonical2

/-- Units alike use the same items and end alike. -/
theorem Alike.loop {c : Config} {r1 r2 : RxUnit} (h : Alike r1 r2) (script : List PollItem) :
    Alike (pollLoop c r1 script).1 (pollLoop c r2 script).1 ∧ (pollLoop c r1 script).2 = (pollLoop c r2 script).2 := by
  induction script generalizing r1 r2 with
  | nil => exact ⟨h, rfl⟩
  | cons item rest ih =>
    cases hb : r1.busy with
    | false => rw [pollLoop_of_not_busy hb, pollLoop_of_not_busy (h.busy.trans hb)]; exact ⟨h, rfl⟩
    | true =>
      have hstep : Alike (rxStep c r1 item.event) (rxStep c r2 item.event) := by
        cases item with
        | byte b => exact h.byte hb b
        | idle => exact h.idle hb
      rw [pollLoop_cons_of_busy hb, pollLoop_cons_of_busy (h.busy.trans hb)]
      exact ⟨(ih hstep).1, congrArg (· + 1) (ih hstep).2⟩

/-- Settles O41: after RX.START the two units are alike, whatever their cells and counters were. -/
theorem nothingIsRetainedAcrossInvocations : Obligations.NothingIsRetainedAcrossInvocations := by
  unfold Obligations.NothingIsRetainedAcrossInvocations
  intro c r1 r2 n script h1 h2 hwf1 hwf2
  obtain ⟨hend, hused⟩ := (alike_startInvocation hwf1 hwf2 n).loop (c := c) script
  rw [decodeRun_of_not_busy h1, decodeRun_of_not_busy h2]
  exact ⟨hend.result, hused⟩

/-! ### The machine on a poll script -/

/-- With nothing queued, a step on an item of a poll script is that item's event, and the queue is empty again. -/
theorem step_pollOffer {s : State} {item : PollItem} {rest : List Offer} (hl : Lawful s) (hb : s.rx.busy = true)
    (hw : s.wireIn = []) (hscript : s.script = pollOffer item :: rest) :
    step s = .next { s with rx := rxStep dali s.rx item.event, script := rest } := by
  have hroom := accLen_lt_accCap_of_busy hl hb
  cases item with
  | byte b =>
    rw [step_wire (State.offer_of_cons hscript), exec_decodeWire, State.advance_of_cons hscript,
      deliverByte_of_busy (s := { s with script := rest }) hb, consumeByte_of_room (by exact hroom)]
    simp [State.consume, hw, PollItem.event]
  | idle =>
    rw [rxEventSelection.2 s false true 0x00#8 rest hscript fun _ => hroom]
    simp [hb, hw, PollItem.event]

/-- From a lawful state with nothing queued, the machine on the offers of a poll script is the loop over it, one step
for each item used. -/
theorem runSteps_pollLoop {script : List PollItem} {s : State} (hl : Lawful s) (hw : s.wireIn = [])
    (hscript : s.script = script.map pollOffer) :
    runSteps (pollLoop dali s.rx script).2 s = .next { s with
      rx := (pollLoop dali s.rx script).1
      script := (script.drop (pollLoop dali s.rx script).2).map pollOffer } := by
  induction script generalizing s with
  | nil => simp [pollLoop, ← hscript]
  | cons item rest ih =>
    cases hb : s.rx.busy with
    | false => simp [pollLoop_of_not_busy hb, ← hscript]
    | true =>
      have hstep := step_pollOffer hl hb hw hscript
      rw [pollLoop_cons_of_busy hb, runSteps_next _ hstep, List.drop_succ_cons]
      exact ih (s := { s with rx := rxStep dali s.rx item.event, script := rest.map pollOffer })
        (RxLawful.lawful_rxStep hl dali_capFits item.event) hw rfl

/-- Settles O42: one step for RX.START, and then the loop. -/
theorem machineRunsTheReferenceRun : Obligations.MachineRunsTheReferenceRun := by
  unfold Obligations.MachineRunsTheReferenceRun
  intro s n script hl hb hw hscript
  have hstart : step s =
      .next { s with rx := rxStep dali s.rx (.start n), script := script.map pollOffer } := by
    rw [rxEventSelection.2 s true false n _ hscript fun h => Bool.noConfusion (hb.symm.trans h)]
    simp [hb]
  dsimp only
  rw [Nat.add_comm, runSteps_next _ hstart]
  exact runSteps_pollLoop (s := { s with rx := rxStep dali s.rx (.start n), script := script.map pollOffer })
    (RxLawful.lawful_rxStep hl dali_capFits (.start n)) hw rfl

end Sys2Proof.Machine
end

section
/-! PROOFS, 42_message_parser.md. `Parse` as the rule of the header's kind, and what the seven rules share; the MSG row
that the header selects shows the host `Parse` of the frame, and each row of the table is that row for its header. -/

namespace Sys2Proof.Machine

/-! ### The rules of the seven kinds -/

/-- The rule of a kind: how its messages are read out of a frame (R161 to R168). -/
def MsgKind.rule : MsgKind → List Byte → Message
  | .timeframeExpired => parseTimeframeExpired
  | .daliRcv1Bytes => parseDaliRcv1Bytes
  | .daliRcv2Bytes => parseDaliRcv2Bytes
  | .invalidDaliFrame => parseInvalidDaliFrame
  | .echo => parseEcho
  | .daliCommand => parseDaliCommand
  | .unknown => parseUnknown

/-- A frame is parsed by the rule of its header's kind (R160). -/
theorem parse_cons (c : Config) (h : Byte) (payload : List Byte) :
    parse c (h :: payload) = (kindOfHeader c h).rule (h :: payload) := by
  simp only [parse]
  cases kindOfHeader c h <;> rfl

@[simp] theorem MsgKind.rule_kind (k : MsgKind) (f : List Byte) : (k.rule f).kind = k := by cases k <;> rfl

@[simp] theorem MsgKind.rule_header (k : MsgKind) (f : List Byte) : (k.rule f).header = guardedRead f 0 := by
  cases k <;> rfl

/-- The kind of a frame's message names the rule that made it, for the empty frame too. -/
theorem parse_eq_rule_kind (c : Config) (f : List Byte) : parse c f = (parse c f).kind.rule f := by
  cases f with
  | nil => rfl
  | cons h payload => rw [parse_cons, MsgKind.rule_kind]

/-- The two rules with a constant `len_err` ask for the header alone, which a non-empty frame has (R80, R169). -/
theorem MsgKind.rule_lenErr (k : MsgKind) (h : Byte) (payload : List Byte) :
    (k.rule (h :: payload)).lenErr = decide ((h :: payload).length < k.need) := by
  cases k with
  | timeframeExpired | daliRcv1Bytes | daliRcv2Bytes | invalidDaliFrame | echo => rfl
  | daliCommand | unknown => exact (decide_eq_false (by simp [MsgKind.need])).symm

/-- The three kinds without a status byte show status 0 (R165 to R168). -/
theorem MsgKind.rule_status_of_noStatus {k : MsgKind} (hk : k = .echo ∨ k = .daliCommand ∨ k = .unknown)
    (f : List Byte) : (k.rule f).status = 0x00#8 := by
  obtain rfl | rfl | rfl := hk <;> rfl

/-- No rule reads past its layout, so bytes after a whole layout change nothing (R170). -/
theorem MsgKind.rule_append {k : MsgKind} {h : Byte} {payload : List Byte} (hk : k.need ≤ (h :: payload).length)
    (surplus : List Byte) : k.rule (h :: (payload ++ surplus)) = k.rule (h :: payload) := by
  have hread : ∀ i < k.need, guardedRead (h :: (payload ++ surplus)) i = guardedRead (h :: payload) i :=
    fun i hi => List.getD_append (h :: payload) surplus _ i (hi.trans_le hk)
  have hlong : ¬ (h :: (payload ++ surplus)).length < k.need := by
    rw [← List.cons_append, List.length_append]; omega
  have hwhole : ¬ (h :: payload).length < k.need := hk.not_gt
  cases k with
  | daliCommand | unknown => rfl
  | timeframeExpired | daliRcv1Bytes | daliRcv2Bytes | invalidDaliFrame | echo =>
    simp only [MsgKind.need] at hread hlong hwhole
    simp only [MsgKind.rule, parseTimeframeExpired, parseDaliRcv1Bytes, parseDaliRcv2Bytes, parseInvalidDaliFrame,
      parseEcho, hread, hlong, hwhole, Nat.reduceLT]

/-- Settles O58: the rule of the header's kind judges the length and stops at its layout. -/
theorem frameLengthsAreJudged : Obligations.FrameLengthsAreJudged := by
  unfold Obligations.FrameLengthsAreJudged
  intro c h payload
  dsimp only
  rw [parse_cons, MsgKind.rule_kind]
  refine ⟨rfl, MsgKind.rule_header _ _, MsgKind.rule_lenErr _ h payload, fun surplus hk => ?_⟩
  rw [parse_cons, MsgKind.rule_append hk surplus]

/-! ### What the host builds -/

/-- A frame that begins with the table's value of a kind is parsed by that kind's rule (R75, R160). -/
theorem parse_of_headerOfKind {c : Config} (hc : c.HeadersDistinct) {h : Byte} {k : MsgKind}
    (hk : headerOfKind c k = some h) (payload : List Byte) : parse c (h :: payload) = k.rule (h :: payload) := by
  rw [parse_cons, kindOfHeader_of_headerOfKind hc hk]

theorem buildCommand_eq_cons (c : Config) (a o p d : Byte) (isConfig : Bool) :
    ∃ payload, buildCommand c a o p d isConfig = c.hDaliCommand :: payload := by
  cases isConfig <;> exact ⟨_, rfl⟩

/-- Settles O60: what is built begins with the header of its kind. -/
theorem buildersParseBack : Obligations.BuildersParseBack := by
  unfold Obligations.BuildersParseBack
  intro c hc
  refine ⟨fun b => ?_, fun a o p d isConfig => ?_, fun k h hk rest => ?_⟩
  · rw [buildEcho, parse_of_headerOfKind hc (k := .echo) rfl]
    exact ⟨rfl, rfl, rfl⟩
  · obtain ⟨payload, hcons⟩ := buildCommand_eq_cons c a o p d isConfig
    rw [hcons, parse_of_headerOfKind hc (k := .daliCommand) rfl, MsgKind.rule_kind]
  · rw [parse_of_headerOfKind hc hk, MsgKind.rule_kind, MsgKind.rule_header]
    exact ⟨rfl, rfl⟩

/-! ### The status byte -/

/-- A bit of a byte is the test of the mask with that bit alone. -/
theorem getLsbD_eq_mask (v : Byte) {i : Nat} (hi : i < 8) :
    v.getLsbD i = (v &&& BitVec.twoPow 8 i != 0#8) := by
  have hmask : BitVec.twoPow 8 i ≠ 0#8 := fun hz => by simpa [hi] using congrArg (BitVec.getLsbD · i) hz
  rw [BitVec.and_twoPow]
  cases v.getLsbD i with
  | false => rfl
  | true => exact (bne_iff_ne.2 hmask).symm

/-- The eight flags by their masks (R171; assumption 11). -/
theorem statusDecode_eq_masks (v : Byte) : statusDecode v =
    { busErr := v &&& 0x80#8 != 0#8, busy := v &&& 0x40#8 != 0#8, overrun := v &&& 0x20#8 != 0#8,
      frameError := v &&& 0x10#8 != 0#8, validReply := v &&& 0x08#8 != 0#8, timeframe := v &&& 0x04#8 != 0#8,
      rcv2Byte := v &&& 0x02#8 != 0#8, rcv1Byte := v &&& 0x01#8 != 0#8 } := by
  simp only [statusDecode, getLsbD_eq_mask, Nat.reduceLT]
  rfl

theorem statusDecode_zero :
    statusDecode 0x00#8 = ⟨false, false, false, false, false, false, false, false⟩ := rfl

/-- Settles O59: the bits by their masks, and the zero status of the kinds without a status byte. -/
theorem statusFlagsAreTheBits : Obligations.StatusFlagsAreTheBits := by
  unfold Obligations.StatusFlagsAreTheBits
  refine ⟨fun v s => ?_, fun f hk => ?_⟩
  · rw [← statusDecode_eq_masks]; rfl
  · have hstatus : (parse dali f).status = 0x00#8 := by
      rw [parse_eq_rule_kind, MsgKind.rule_status_of_noStatus hk]
    exact ⟨hstatus, by rw [hstatus, statusDecode_zero]⟩

/-! ### The MSG rows -/

theorem RxUnit.hasHeader_of_frame {r : RxUnit} {h : Byte} {payload : List Byte} (hf : r.frame = h :: payload) :
    r.hasHeader h = true := by
  simp [RxUnit.hasHeader, hf]

theorem kindOfHeader_of_not_isKnownHeader {c : Config} {h : Byte} (hh : isKnownHeader c h = false) :
    kindOfHeader c h = .unknown := by
  have hne := mt (isKnownHeader_iff c h).2 (Bool.eq_false_iff.1 hh)
  simp only [not_or] at hne
  simp only [kindOfHeader, hne, if_false]

/-- The row that a frame's header selects shows the host the frame's message (R160, R172). -/
theorem exec_decodeHeader_of_cons {s : State} {h : Byte} {payload : List Byte} {m : Message}
    (hf : s.rx.frame = h :: payload) (hm : parse dali (h :: payload) = m) :
    exec (decodeHeader h) s = .next (s.sampleMsg m) := by
  subst hm
  cases hh : isKnownHeader dali h with
  | true =>
    have hheader := RxUnit.hasHeader_of_frame hf
    obtain rfl | rfl | rfl | rfl | rfl | rfl := (isKnownHeader_iff dali h).1 hh <;>
      exact congrArg Host.Outcome.next ((if_pos hheader).trans (by rw [hf]; rfl))
  | false =>
    have hk := kindOfHeader_of_not_isKnownHeader hh
    rw [decodeHeader_of_not_isKnownHeader hh, parse_cons, hk]
    exact congrArg Host.Outcome.next ((if_pos ⟨by rw [hf]; rfl, hk⟩).trans (by rw [hf]; rfl))

/-- The empty frame selects MSG.UNKNOWN, by its guarded header 0x00 (R168). -/
theorem exec_msgUnknown_of_nil {s : State} (hf : s.rx.frame = []) :
    exec (.msgUnknown 0x00#8) s = .next (s.sampleMsg (parse dali [])) :=
  congrArg Host.Outcome.next ((if_pos ⟨by rw [hf]; rfl, rfl⟩).trans (by rw [hf]; rfl))

/-- Settles O57: the step runs the row that the frame's guarded header selects. -/
theorem parserStepIsParse : Obligations.ParserStepIsParse := by
  unfold Obligations.ParserStepIsParse
  intro s rest hscript
  rw [step_parse (State.offer_of_cons hscript), State.advance_of_cons hscript]
  cases hf : s.rx.frame with
  | nil => exact exec_msgUnknown_of_nil (s := { s with script := rest }) hf
  | cons h payload => exact exec_decodeHeader_of_cons (s := { s with script := rest }) hf rfl

/-! ### The rows one by one -/

theorem parseTimeframeExpired_cons (h : Byte) (payload : List Byte) : parseTimeframeExpired (h :: payload) =
    ⟨.timeframeExpired, h, payload.getD 0 0x00#8, 0x00#8, 0x00#8, decide (payload.length < 1)⟩ := by
  simp [parseTimeframeExpired, guardedRead]

theorem parseInvalidDaliFrame_cons (h : Byte) (payload : List Byte) : parseInvalidDaliFrame (h :: payload) =
    ⟨.invalidDaliFrame, h, payload.getD 0 0x00#8, 0x00#8, 0x00#8, decide (payload.length < 1)⟩ := by
  simp [parseInvalidDaliFrame, guardedRead]

theorem parseDaliRcv1Bytes_cons (h : Byte) (payload : List Byte) : parseDaliRcv1Bytes (h :: payload) =
    ⟨.daliRcv1Bytes, h, payload.getD 0 0x00#8, payload.getD 1 0x00#8, 0x00#8, decide (payload.length < 2)⟩ := by
  simp [parseDaliRcv1Bytes, guardedRead]; omega

theorem parseDaliRcv2Bytes_cons (h : Byte) (payload : List Byte) : parseDaliRcv2Bytes (h :: payload) =
    ⟨.daliRcv2Bytes, h, payload.getD 0 0x00#8, payload.getD 1 0x00#8, payload.getD 2 0x00#8,
      decide (payload.length < 3)⟩ := by
  simp [parseDaliRcv2Bytes, guardedRead]; omega

theorem parseEcho_cons (h : Byte) (payload : List Byte) : parseEcho (h :: payload) =
    ⟨.echo, h, 0x00#8, payload.getD 0 0x00#8, 0x00#8, decide (payload.length < 1)⟩ := by
  simp [parseEcho, guardedRead]

/-- `value16` of two bytes is below 2 to the 16 (R79). -/
theorem value16_le (m : Message) : m.value16 ≤ 65535 := by
  have h0 := m.d0.isLt
  have h1 := m.d1.isLt
  rw [Message.value16]
  omega

/-- Settles O52: the rows of 0x0A and 0x0B. -/
theorem statusOnlyMessages : Obligations.StatusOnlyMessages := by
  unfold Obligations.StatusOnlyMessages
  intro s payload
  exact ⟨fun hf => exec_decodeHeader_of_cons hf (parseTimeframeExpired_cons _ payload),
    fun hf => exec_decodeHeader_of_cons hf (parseInvalidDaliFrame_cons _ payload)⟩

/-- Settles O53: the row of 0x02. -/
theorem oneByteReplies : Obligations.OneByteReplies := by
  unfold Obligations.OneByteReplies
  intro s payload hf
  exact ⟨exec_decodeHeader_of_cons hf (parseDaliRcv1Bytes_cons _ payload), rfl⟩

/-- Settles O54: the row of 0x03. -/
theorem twoByteReplies : Obligations.TwoByteReplies := by
  unfold Obligations.TwoByteReplies
  intro s payload hf
  exact ⟨exec_decodeHeader_of_cons hf (parseDaliRcv2Bytes_cons _ payload), rfl, value16_le _⟩

/-- Settles O55: the row of 0x1E. -/
theorem echoMessages : Obligations.EchoMessages := by
  unfold Obligations.EchoMessages
  intro s payload hf
  exact ⟨exec_decodeHeader_of_cons hf (parseEcho_cons _ payload), rfl⟩

/-- Settles O56: the row of 0x01, and MSG.UNKNOWN for a header of no kind and for the empty frame. -/
theorem messagesWithoutFields : Obligations.MessagesWithoutFields := by
  unfold Obligations.MessagesWithoutFields
  intro s payload
  refine ⟨fun hf => exec_decodeHeader_of_cons hf rfl, fun h h1 h2 h3 h4 h5 h6 hf => ?_, exec_msgUnknown_of_nil⟩
  have hh : isKnownHeader dali h = false :=
    Bool.eq_false_iff.2 fun ht => by simpa [h1, h2, h3, h4, h5, h6, dali] using (isKnownHeader_iff dali h).1 ht
  rw [← decodeHeader_of_not_isKnownHeader hh]
  exact exec_decodeHeader_of_cons hf (by rw [parse_cons, kindOfHeader_of_not_isKnownHeader hh]; rfl)

end Sys2Proof.Machine
end

section
/-! PROOFS, 60_exceptions.md. A lawful state never stops, because every row of the opcode table completes in it.
Then everything a step can do to the RX registers, which of it enters `EXHAUSTED`, and which leaves a terminal state. -/

namespace Sys2Proof.Machine

/-! ### Lawful states never stop -/

/-- Settles O45: whichever row the offer selects completes, because a lawful busy unit has room to append; that an illegal
item and a row which is not the selected one complete too is the model's choice (assumptions 1, 5 and 18). -/
theorem lawfulStatesNeverStop : Obligations.LawfulStatesNeverStop := by
  unfold Obligations.LawfulStatesNeverStop
  intro s hl hdecode
  have row_completes : ∀ i, ∃ t, exec i s.advance = .next t :=
    exec_completes (s := s.advance) (accLen_lt_accCap_of_busy hl)
  cases ho : s.offer with
  | tx i => exact ⟨_, step_tx ho⟩
  | rx start limit tick =>
    have hf : fetch s = fetchRx s.rx s.wireIn start limit tick := by simp only [fetch, ho]
    rw [step_of_word hf (decode_rxCycleWord ..)]
    exact row_completes _
  | wire b => rw [step_wire ho]; exact row_completes _
  | read k => rw [step_read ho]; exact row_completes _
  | parse => rw [step_parse ho]; exact row_completes _
  | status v => rw [step_status ho]; exact row_completes _
  | event w =>
    obtain ⟨i, hd⟩ := hdecode w ho
    have hf : fetch s = .word w := by simp only [fetch, ho]
    rw [step_of_word hf hd]
    exact row_completes i
  | rst => exact ⟨s.advance.applyReset, by simp only [step, fetch, ho]⟩
  | flush => exact ⟨s.advance.flushWire, by simp only [step, fetch, ho]⟩

/-! ### What a step does to the RX registers -/

/-- Everything a step can do to the RX registers: nothing, a reset, an RX.START, an idle poll that takes no byte, or,
only while busy, the byte at the head of the queue. -/
theorem step_rx_cases {s t : State} (h : step s = .next t) :
    t.rx = s.rx ∨
    (s.offer = .rst ∧ t.rx = s.rx.resetFrom) ∨
    (∃ w n, fetch s = .word w ∧ decode w = .ok (.rxStart n) ∧ t.rx = rxStep dali s.rx (.start n)) ∨
    (t.wireIn = s.wireIn ∧ t.rx = rxStep dali s.rx .idle) ∨
    (∃ b, s.rx.busy = true ∧ s.wireIn ++ s.delivered = b :: t.wireIn ∧ t.rx = rxStep dali s.rx (.byte b)) := by
  obtain ⟨ho, hr, -⟩ | ⟨-, hr, -⟩ | ⟨hr, -⟩ | ⟨w, i, hf, hd, hexec, hdelivered⟩ := step_cases h
  · exact .inr (.inl ⟨ho, hr⟩)
  · exact .inl hr
  · exact .inl hr
  · obtain ⟨hw, hr | ⟨n, rfl, hr⟩ | ⟨rfl, hr⟩⟩ | ⟨b, hb, hq, hr, -⟩ := exec_rx_cases hexec
    · exact .inl hr
    · exact .inr (.inr (.inl ⟨w, n, hf, hd, hr⟩))
    · exact .inr (.inr (.inr (.inl ⟨hw.trans (List.append_nil _), hr⟩)))
    · rw [delivers_advance, ← hdelivered] at hq
      exact .inr (.inr (.inr (.inr ⟨b, hb, hq, hr⟩)))

/-! ### The two give-ups -/

/-- Before the byte-cap check a byte leaves a busy unit busy, or completes the frame (R124 to R131). -/
theorem byteArm_busy_or_complete {r : RxUnit} (hb : r.busy = true) (c : Config) (b : Byte) :
    (byteArm c r.state b (countByte c r)).busy = true ∨ (byteArm c r.state b (countByte c r)).state = .complete := by
  have hcount : (countByte c r).busy = true := hb
  obtain hs | hs | hs | hs := r.busy_iff.1 hb <;> rw [hs] <;> simp only [byteArm]
  · split
    · exact .inl rfl
    · split
      · exact .inl rfl
      · exact .inl hcount
  · split
    · exact .inr rfl
    · split
      · exact .inl rfl
      · exact .inl hcount
  · exact .inl rfl
  · exact .inl rfl

/-- A byte ends a busy unit's invocation without a frame only at the cap, by the give-up after its arm (R132). -/
theorem rxStep_byte_of_exhausted {c : Config} {r : RxUnit} {b : Byte} (hb : r.busy = true)
    (h : (rxStep c r (.byte b)).state = .exhausted) :
    (r.byteCnt + 1).toNat = c.byteCap ∧
      rxStep c r (.byte b) = giveUp .byteCap (byteArm c r.state b (countByte c r)) := by
  rw [rxStep_byte_of_busy hb, byteStep] at h ⊢
  obtain ⟨he, -⟩ | ⟨he, -, hcap⟩ := capCheck_cases c (byteArm c r.state b (countByte c r))
  · rw [he] at h
    obtain harm | harm := byteArm_busy_or_complete hb c b
    · exact absurd h (state_ne_of_busy harm rfl)
    · exact RxState.noConfusion (harm.symm.trans h)
  · rw [byteArm_byteCnt, countByte_byteCnt] at hcap
    exact ⟨hcap, he⟩

/-- An idle poll leads into `EXHAUSTED` only from a busy state, at the limit (R133). -/
theorem rxStep_idle_of_exhausted {c : Config} {r : RxUnit} (hr : r.state ≠ .exhausted)
    (h : (rxStep c r .idle).state = .exhausted) :
    r.busy = true ∧ r.waitLim.toNat ≤ r.waitCnt.toNat + 1 ∧
      rxStep c r .idle = giveUp .waitLimit { r with waitCnt := r.waitCnt + 1 } := by
  cases hb : r.busy with
  | false => rw [rxStep_of_not_busy hb] at h; exact absurd h hr
  | true =>
    rw [rxStep_idle_of_busy hb] at h ⊢
    by_cases hlim : r.waitLim.toNat ≤ r.waitCnt.toNat + 1
    · exact ⟨rfl, hlim, idlePoll_at_limit hlim⟩
    · rw [idlePoll_below_limit (by omega)] at h
      exact absurd h hr

/-- RX.START never leads into `EXHAUSTED` (R121). -/
theorem rxStep_start_ne_exhausted {c : Config} {r : RxUnit} (hr : r.state ≠ .exhausted) (n : Wait) :
    (rxStep c r (.start n)).state ≠ .exhausted := by
  cases hb : r.busy with
  | false => rw [rxStep_of_not_busy hb]; exact RxState.noConfusion
  | true => rwa [rxStep_start_of_busy hb]

/-- Settles O46: of all that a step can do to the RX registers, only a byte at the cap and an idle poll at the limit lead
into `EXHAUSTED`. -/
theorem giveUpHasTwoCauses : Obligations.GiveUpHasTwoCauses := by
  unfold Obligations.GiveUpHasTwoCauses
  intro s t h hs ht
  obtain hr | ⟨-, hr⟩ | ⟨_, n, -, -, hr⟩ | ⟨hw, hr⟩ | ⟨b, hb, hq, hr⟩ := step_rx_cases h <;> rw [hr] at ht ⊢
  · exact absurd ht hs
  · exact RxState.noConfusion ht
  · exact absurd ht (rxStep_start_ne_exhausted hs n)
  · obtain ⟨hb, hlim, he⟩ := rxStep_idle_of_exhausted hs ht
    exact ⟨hb, .inr ⟨hw, hlim, he⟩⟩
  · obtain ⟨hcap, he⟩ := rxStep_byte_of_exhausted hb ht
    exact ⟨hb, .inl ⟨b, hq, hcap, he⟩⟩

/-! ### Leaving a terminal state -/

/-- Settles O47: a unit in a terminal state is not busy, so it takes no byte and an idle poll does nothing. -/
theorem onlyStartOrResetLeavesATerminalState : Obligations.OnlyStartOrResetLeavesATerminalState := by
  unfold Obligations.OnlyStartOrResetLeavesATerminalState
  intro s t hs h
  have hquiet : s.rx.busy = false := s.rx.not_busy_iff.2 (.inr hs)
  obtain hr | ⟨ho, -⟩ | ⟨w, n, hf, hd, hr⟩ | ⟨-, hr⟩ | ⟨b, hb, -⟩ := step_rx_cases h
  · exact .inl hr
  · exact .inr (.inl ho)
  · rw [rxStep_of_not_busy hquiet] at hr
    exact .inr (.inr ⟨w, n, hf, hd, hr⟩)
  · rw [rxStep_of_not_busy hquiet] at hr
    exact .inl hr
  · exact Bool.noConfusion (hquiet.symm.trans hb)

end Sys2Proof.Machine
end

section
/-! PROOFS, 70_reset_and_hazards.md. Reset at the port and in the machine; then the three hazards of the byte stream: the
length of a command frame, an escape marker in the noise (which makes the frame after it quiet noise too), and a lost
stop marker. -/

namespace Sys2Proof.Machine

/-! ### Reset -/

theorem step_rst {s : State} (h : s.offer = .rst) : step s = .next s.advance.applyReset := by
  simp only [step, fetch, h]

/-- Settles O2: an edge with `rst` looks at no other input, and a step on a reset is `applyReset`, whose streams are those
before. -/
theorem resetEdgeBeatsEverything : Obligations.ResetEdgeBeatsEverything := by
  unfold Obligations.ResetEdgeBeatsEverything
  refine ⟨fun t r i hrst => ?_, fun s rest hscript => ?_⟩
  · have hedge : clockEdge dali t r i = (TxUnit.reset, r.resetFrom) := if_pos hrst
    rw [hedge]
    exact ⟨rfl, rfl, rfl, rfl, rfl, rfl, rfl⟩
  · rw [step_rst (State.offer_of_cons hscript), State.advance_of_cons hscript]
    exact ⟨_, rfl, rfl, rfl, rfl, rfl, rfl, rfl, rfl, rfl, rfl, rfl⟩

/-! ### The length of a command frame -/

theorem length_stuff (c : Config) (p : List Byte) : (stuff c p).length = 2 + p.length + p.countP (isMarker c) :=
  (encodedFrameShape c p).1

theorem countP_isMarker_cons_of_not {c : Config} {b : Byte} (hb : isMarker c b = false) (p : List Byte) :
    (b :: p).countP (isMarker c) = p.countP (isMarker c) := List.countP_cons_of_neg (by simp [hb])

/-- The header of a command frame is no marker, and neither is the zero byte of the long form. -/
theorem countP_isMarker_buildCommand_le (a o p d : Byte) (isConfig : Bool) :
    (buildCommand dali a o p d isConfig).countP (isMarker dali) ≤ if isConfig then 7 else 4 := by
  have hheader : isMarker dali dali.hDaliCommand = false := by decide
  have hzero : isMarker dali 0x00#8 = false := by decide
  cases isConfig with
  | false => exact (countP_isMarker_cons_of_not hheader [a, o, p, d]).trans_le List.countP_le_length
  | true =>
    have hsplit : buildCommand dali a o p d true = dali.hDaliCommand :: ([a, o, p, d, a, o] ++ 0x00#8 :: [d]) := rfl
    rw [hsplit, countP_isMarker_cons_of_not hheader, List.countP_append, countP_isMarker_cons_of_not hzero]
    exact Nat.add_le_add List.countP_le_length List.countP_le_length

/-- Settles O20: the two markers, at most nine bytes, and one more for each of at most seven that can be markers. -/
theorem commandFramesAreShort : Obligations.CommandFramesAreShort := by
  unfold Obligations.CommandFramesAreShort
  intro a o p d isConfig
  have hmarkers := countP_isMarker_buildCommand_le a o p d isConfig
  rw [length_stuff]
  cases isConfig with
  | false =>
    have hlength : (buildCommand dali a o p d false).length = 5 := rfl
    simp only [Bool.false_eq_true, if_false] at hmarkers
    omega
  | true =>
    have hlength : (buildCommand dali a o p d true).length = 9 := rfl
    simp only [if_true] at hmarkers
    omega

/-! ### A frame behind an escape marker is quiet noise -/

theorem quietNoise_append {c : Config} {pending : Bool} {g h : List Byte} (hg : quietNoise c pending g = true)
    (hh : quietNoise c false h = true) : quietNoise c pending (g ++ h) = true := by
  induction g generalizing pending with
  | nil => cases pending with
    | false => exact hh
    | true => exact Bool.noConfusion hg
  | cons b g ih =>
    cases pending with
    | true => exact ih (pending := false) hg
    | false =>
      simp only [List.cons_append, quietNoise, Bool.and_eq_true] at hg ⊢
      exact ⟨hg.1, ih hg.2⟩

/-- An escape marker and the byte after it are a pair of noise, whatever the byte. -/
theorem quietNoise_esc_pair {c : Config} (hc : c.MarkersDistinct) (b : Byte) (rest : List Byte) :
    quietNoise c false (c.esc :: b :: rest) = quietNoise c false rest := by
  obtain ⟨-, hne, -⟩ := hc
  simp [quietNoise, hne.symm]

/-- A byte that is neither the start marker nor the escape marker is noise by itself. -/
theorem quietNoise_cons {c : Config} {b : Byte} (hstart : b ≠ c.start) (hesc : b ≠ c.esc) (rest : List Byte) :
    quietNoise c false (b :: rest) = quietNoise c false rest := by
  have hb : (b == c.esc) = false := by simpa using hesc
  simp [quietNoise, hstart, hb]

theorem quietNoise_flatMap_stuffByte {c : Config} (hc : c.MarkersDistinct) (p : List Byte) :
    quietNoise c false (p.flatMap (stuffByte c)) = true := by
  induction p with
  | nil => rfl
  | cons b p ih =>
    rw [List.flatMap_cons]
    cases hm : isMarker c b with
    | true => simpa [stuffByte, hm, quietNoise_esc_pair hc] using ih
    | false =>
      obtain ⟨hstart, -, hesc⟩ := (not_isMarker_iff c b).1 hm
      simpa [stuffByte, hm, quietNoise_cons hstart hesc] using ih

/-- The escape marker takes the start marker into its pair, and nothing else of the frame can open one (R218). -/
theorem quietNoise_esc_stuff {c : Config} (hc : c.MarkersDistinct) (p : List Byte) :
    quietNoise c false (c.esc :: stuff c p) = true := by
  have ⟨hstart, _, hesc⟩ := hc
  have hstop : quietNoise c false [c.stop] = true := quietNoise_cons hstart.symm hesc []
  rw [stuff, quietNoise_esc_pair hc]
  exact quietNoise_append (quietNoise_flatMap_stuffByte hc p) hstop

/-! ### An invocation that hears only noise -/

/-- The frame is empty, and the unit has given up or is outside a frame where the bytes to come are quiet noise to it. -/
structure HearsNoise (c : Config) (r : RxUnit) (bytes : List Byte) : Prop where
  empty : r.accLen = 0#6
  outside : r.state = .exhausted ∨ (r.state = .seeking ∧ quietNoise c false bytes = true) ∨
    (r.state = .escSeek ∧ quietNoise c true bytes = true)

theorem HearsNoise.giveUp {c : Config} {r : RxUnit} {bytes : List Byte} (h : HearsNoise c r bytes) (k : Cause) :
    HearsNoise c (giveUp k r) bytes := ⟨h.empty, .inl rfl⟩

theorem HearsNoise.capCheck {c : Config} {r : RxUnit} {bytes : List Byte} (h : HearsNoise c r bytes) :
    HearsNoise c (capCheck c r) bytes := by
  obtain ⟨he, -⟩ | ⟨he, -⟩ := capCheck_cases c r <;> rw [he]
  · exact h
  · exact h.giveUp .byteCap

/-- The arms of a quiet byte: in SEEKING it is discarded or opens an escape, and an escape discards it (R125 to R127). -/
theorem HearsNoise.byte {c : Config} {r : RxUnit} {b : Byte} {bytes : List Byte} (h : HearsNoise c r (b :: bytes))
    (hb : r.busy = true) : HearsNoise c (rxStep c r (.byte b)) bytes := by
  rw [rxStep_byte_of_busy hb, byteStep]
  apply HearsNoise.capCheck
  obtain hs | ⟨hs, hq⟩ | ⟨hs, hq⟩ := h.outside
  · exact absurd hs (state_ne_of_busy hb rfl)
  · simp only [quietNoise, Bool.and_eq_true, Bool.not_eq_true', beq_eq_false_iff_ne] at hq
    obtain ⟨hstart, hrest⟩ := hq
    rw [hs, byteArm, if_neg hstart]
    by_cases hesc : b = c.esc
    · rw [if_pos hesc]
      exact ⟨h.empty, .inr (.inr ⟨rfl, by simpa [hesc] using hrest⟩)⟩
    · rw [if_neg hesc]
      exact ⟨h.empty, .inr (.inl ⟨hs, by simpa [beq_eq_false_iff_ne.2 hesc] using hrest⟩)⟩
  · rw [hs]
    exact ⟨h.empty, .inr (.inl ⟨rfl, hq⟩)⟩

theorem HearsNoise.idle {c : Config} {r : RxUnit} {bytes : List Byte} (h : HearsNoise c r bytes)
    (hb : r.busy = true) : HearsNoise c (rxStep c r .idle) bytes := by
  rw [rxStep_idle_of_busy hb]
  have hcounted : HearsNoise c { r with waitCnt := r.waitCnt + 1 } bytes := ⟨h.empty, h.outside⟩
  by_cases hlim : r.waitLim.toNat ≤ r.waitCnt.toNat + 1
  · rw [idlePoll_at_limit hlim]
    exact hcounted.giveUp .waitLimit
  · rw [idlePoll_below_limit (by omega)]
    exact hcounted

theorem HearsNoise.pollLoop {c : Config} {script : List PollItem} {r : RxUnit}
    (h : HearsNoise c r (scriptBytes script)) : HearsNoise c (pollLoop c r script).1 [] := by
  induction script generalizing r with
  | nil => exact h
  | cons item rest ih =>
    cases hb : r.busy with
    | false =>
      rw [pollLoop_of_not_busy hb]
      refine ⟨h.empty, .inl ?_⟩
      obtain hs | ⟨hs, -⟩ | ⟨hs, -⟩ := h.outside
      · exact hs
      · exact absurd (r.busy_iff.2 (.inl hs)) (by simp [hb])
      · exact absurd (r.busy_iff.2 (.inr (.inr (.inl hs)))) (by simp [hb])
    | true =>
      rw [pollLoop_cons_of_busy hb]
      cases item with
      | byte b => exact ih (h.byte hb)
      | idle => exact ih (h.idle hb)

/-- After a script whose bytes are quiet noise, the unit is seeking or has given up, with an empty frame. -/
theorem pollLoop_quietNoise {c : Config} {script : List PollItem} (hq : quietNoise c false (scriptBytes script) = true)
    (n : Wait) (r0 : RxUnit) :
    let r := (pollLoop c (startInvocation n r0) script).1
    (r.state = .seeking ∨ r.state = .exhausted) ∧ r.frame = [] := by
  have hstart : HearsNoise c (startInvocation n r0) (scriptBytes script) := ⟨rfl, .inr (.inl ⟨rfl, hq⟩)⟩
  obtain ⟨hempty, hs | ⟨hs, -⟩ | ⟨-, hpending⟩⟩ := hstart.pollLoop
  · exact ⟨.inr hs, RxUnit.frame_of_empty hempty⟩
  · exact ⟨.inl hs, RxUnit.frame_of_empty hempty⟩
  · exact Bool.noConfusion hpending

/-! ### Invocations without an idle poll -/

theorem scriptBytes_map_byte (bytes : List Byte) : scriptBytes (bytes.map .byte) = bytes := by
  induction bytes with
  | nil => rfl
  | cons b bytes ih => rw [List.map_cons, scriptBytes_byte_cons, ih]

theorem scriptIdles_map_byte (bytes : List Byte) : scriptIdles (bytes.map .byte) = 0 := by
  have := length_eq_bytes_add_idles (bytes.map .byte)
  rw [scriptBytes_map_byte, List.length_map] at this
  omega

/-- A unit that has given up has used an idle poll or counted as many bytes as the cap (R195). -/
def GiveUpExplained (c : Config) (r : RxUnit) (used : List PollItem) : Prop :=
  r.state = .exhausted → .idle ∈ used ∨ r.byteCnt.toNat = c.byteCap

theorem giveUpExplained_pollLoop (c : Config) (n : Wait) (r0 : RxUnit) (script : List PollItem) :
    GiveUpExplained c (pollLoop c (startInvocation n r0) script).1
      (script.take (pollLoop c (startInvocation n r0) script).2) := by
  have hbegin : GiveUpExplained c (startInvocation n r0) [] := fun h => RxState.noConfusion h
  refine pollLoop_induction (P := GiveUpExplained c) ?_ script hbegin
  intro r used item hb _ h
  cases item with
  | idle => exact .inl (by simp)
  | byte b =>
    obtain ⟨hcap, he⟩ := rxStep_byte_of_exhausted hb h
    exact .inr (by rw [PollItem.event, he]; simpa using hcap)

/-- Fewer bytes than the cap, and no idle poll, do not end in a give-up. -/
theorem pollLoop_bytes_ne_exhausted {c : Config} (hc : c.CapFits) {bytes : List Byte} (hlen : bytes.length < c.byteCap)
    (n : Wait) (r0 : RxUnit) : (pollLoop c (startInvocation n r0) (bytes.map .byte)).1.state ≠ .exhausted := by
  intro hs
  obtain hidle | hcap := giveUpExplained_pollLoop c n r0 (bytes.map .byte) hs
  · simpa using List.mem_of_mem_take hidle
  · have hcount := (spent_pollLoop hc n r0 (bytes.map .byte)).bytes
    have hused := length_eq_bytes_add_idles
      ((bytes.map PollItem.byte).take (pollLoop c (startInvocation n r0) (bytes.map .byte)).2)
    have hmost : ((bytes.map PollItem.byte).take (pollLoop c (startInvocation n r0) (bytes.map .byte)).2).length ≤
        bytes.length := (List.length_take_le' _ _).trans_eq (List.length_map _)
    omega

/-- Settles O37: noise, escape marker and frame together are quiet noise. -/
theorem escapeInTheNoiseHidesTheFrame : Obligations.EscapeInTheNoiseHidesTheFrame := by
  unfold Obligations.EscapeInTheNoiseHidesTheFrame
  intro c hm r0 n g p h0 hg
  have hq : quietNoise c false (g ++ c.esc :: stuff c p) = true := quietNoise_append hg (quietNoise_esc_stuff hm p)
  refine ⟨fun script hscript => ?_, fun hc hlen => ?_⟩
  · obtain ⟨hs, hf⟩ := pollLoop_quietNoise (hscript ▸ hq) n r0
    rw [decodeRun_of_not_busy h0]
    refine ⟨?_, hf⟩
    obtain hs | hs := hs
    · exact .inr (RxUnit.result_of_busy ((RxUnit.busy_iff _).2 (.inl hs)))
    · exact .inl (RxUnit.result_of_exhausted hs)
  · have hlength : (g ++ c.esc :: stuff c p).length = g.length + 1 + (stuff c p).length := by
      rw [List.length_append, List.length_cons]; omega
    obtain ⟨hs, hf⟩ := pollLoop_quietNoise (script := (g ++ c.esc :: stuff c p).map .byte)
      (by rwa [scriptBytes_map_byte]) n r0
    replace hs := hs.resolve_right (pollLoop_bytes_ne_exhausted hc (hlength ▸ hlen) n r0)
    have hb := (RxUnit.busy_iff _).2 (.inl hs)
    refine ⟨_, ?_, hs, hf⟩
    rw [decodeRun_of_not_busy h0, RxUnit.result_of_busy hb, pollLoop_used_of_busy hb, List.length_map, hlength]

/-! ### The limit steers no byte -/

theorem byteArm_withLimit (c : Config) (S : RxState) (b : Byte) (r : RxUnit) (n : Wait) :
    byteArm c S b { r with waitLim := n } = { byteArm c S b r with waitLim := n } := by
  cases S with
  | seeking | inframe =>
    simp only [byteArm]
    split
    · rfl
    · split <;> rfl
  | escSeek | escFrame | idle | complete | exhausted => rfl

theorem rxStep_byte_withLimit (c : Config) (r : RxUnit) (n : Wait) (b : Byte) :
    rxStep c { r with waitLim := n } (.byte b) = { rxStep c r (.byte b) with waitLim := n } := by
  cases hb : r.busy with
  | false => rw [rxStep_of_not_busy hb, rxStep_of_not_busy (r := { r with waitLim := n }) hb]
  | true =>
    rw [rxStep_byte_of_busy hb, rxStep_byte_of_busy (r := { r with waitLim := n }) hb]
    refine (congrArg (capCheck c) (byteArm_withLimit c r.state b (countByte c r) n)).trans ?_
    simp only [byteStep, capCheck]
    split <;> rfl

/-- Another limit changes nothing else in a run without idle polls. -/
theorem pollLoop_bytes_withLimit (c : Config) (r : RxUnit) (n : Wait) (bytes : List Byte) :
    (pollLoop c { r with waitLim := n } (bytes.map .byte)).1 =
      { (pollLoop c r (bytes.map .byte)).1 with waitLim := n } := by
  induction bytes generalizing r with
  | nil => rfl
  | cons b bytes ih =>
    rw [List.map_cons]
    cases hb : r.busy with
    | false => rw [pollLoop_of_not_busy hb, pollLoop_of_not_busy (r := { r with waitLim := n }) hb]
    | true =>
      rw [pollLoop_cons_of_busy hb, pollLoop_cons_of_busy (r := { r with waitLim := n }) hb, PollItem.event,
        rxStep_byte_withLimit, ih]

/-- Fewer bytes than the cap, and no idle poll, are received whole, whatever the limit: as with the limit 1. -/
theorem view_pollLoop_bytes {c : Config} (hc : c.byteCap < 64) {bytes : List Byte} (hlen : bytes.length < c.byteCap)
    {r0 : RxUnit} (hwf : Memory.wf r0.acc = true) (n : Wait) :
    (pollLoop c (startInvocation n r0) (bytes.map .byte)).1.view = receive c (.seeking, []) bytes := by
  have hrec : Receiving c (scriptBytes (bytes.map .byte)).length (scriptIdles (bytes.map .byte))
      (startInvocation 1#8 r0) :=
    receiving_startInvocation hwf (by rwa [scriptBytes_map_byte]) (by rw [scriptIdles_map_byte]; decide)
  have hview := view_pollLoop hc hrec
  rw [scriptBytes_map_byte] at hview
  rw [show startInvocation n r0 = { startInvocation 1#8 r0 with waitLim := n } from rfl, pollLoop_bytes_withLimit]
  exact hview

/-- Bytes within the cap that leave the frame `f` open, and a stop marker: the run returns `f` and uses all of them. -/
theorem decodeRun_bytes_stop {c : Config} (hc : c.CapFits) {r0 : RxUnit} (h0 : r0.busy = false)
    (hwf : Memory.wf r0.acc = true) {bytes f : List Byte} (hf : receive c (.seeking, []) bytes = (.inframe, f))
    (hlen : bytes.length < c.byteCap) (n : Wait) :
    ∃ r, decodeRun c r0 n ((bytes ++ [c.stop]).map .byte) = (.frame f, bytes.length + 1, r) := by
  obtain ⟨hs, hframe⟩ : (pollLoop c (startInvocation n r0) (bytes.map .byte)).1.state = .inframe ∧
      (pollLoop c (startInvocation n r0) (bytes.map .byte)).1.frame = f := by
    rw [← Prod.mk.injEq]
    exact (view_pollLoop_bytes hc.2 hlen hwf n).trans hf
  refine ⟨goto .complete (countByte c (pollLoop c (startInvocation n r0) (bytes.map .byte)).1), ?_⟩
  rw [List.map_append, List.map_singleton, decodeRun_of_last h0 rfl ((RxUnit.busy_iff _).2 (.inr (.inl hs)))
    (item := .byte c.stop) (rxStep_stop_of_inframe hs c) rfl, RxUnit.result_of_complete (goto_state _ _),
    List.length_map, ← hframe]
  rfl

/-- Inside a frame the start marker is a byte of the payload (R130, R142). -/
theorem receive_merged_frames {c : Config} (hm : c.MarkersDistinct) (p q : List Byte) :
    receive c (.seeking, []) (c.start :: (p.flatMap (stuffByte c) ++ c.start :: q.flatMap (stuffByte c))) =
      (.inframe, p ++ c.start :: q) := by
  have ⟨hstop, hesc, _⟩ := hm
  have hopen : receiveByte c (.seeking, []) c.start = (.inframe, []) := if_pos rfl
  have hdata : receiveByte c (.inframe, p) c.start = (.inframe, p ++ [c.start]) := by
    simp [receiveByte, hstop, hesc]
  rw [receive_cons, hopen, receive_append, receive_payload hm, List.nil_append, receive_cons, hdata,
    receive_payload hm, List.append_assoc]
  rfl

/-- Settles O38: the two frames but the last stop marker leave the merged frame open. -/
theorem lostStopMarkerMergesFrames : Obligations.LostStopMarkerMergesFrames := by
  unfold Obligations.LostStopMarkerMergesFrames
  intro c hm hc r0 n p q h0 hwf hcap
  have hsplit : c.start :: (p.flatMap (stuffByte c) ++ stuff c q) =
      c.start :: (p.flatMap (stuffByte c) ++ c.start :: q.flatMap (stuffByte c)) ++ [c.stop] := by simp [stuff]
  rw [hsplit] at hcap ⊢
  rw [List.length_append, List.length_singleton] at hcap ⊢
  exact decodeRun_bytes_stop hc h0 hwf (receive_merged_frames hm p q) hcap n

end Sys2Proof.Machine
end
